-- ==== Sys2Proof/Word.lean ====
section
/-! DEFINITION. The word types of the core: 32-bit registers and addresses, 8-bit bytes, 5-bit register fields
(00_scope.md R6, R11; 10_state.md R20, R33). -/

namespace Sys2Proof

/-- A register value, an address or a 32-bit instruction word (R6, R11). -/
abbrev Word := BitVec 32

/-- One byte of the address space (R50, R51). -/
abbrev Byte := BitVec 8

/-- A 5-bit register field, naming x0 to x31 (R20). -/
abbrev RegIdx := BitVec 5

end Sys2Proof
end

