-- ==== Sys2Proof/Syntax.lean ====
section
/-! DEFINITION. The instructions of the core: one constructor per row of spec/opcode_table.json, and the shapes of
30_encoding.md R72. Fields are the raw bit fields of R73 to R84: `rd`, `rs1`, `rs2` are 5 bits, an immediate keeps
the width R80 to R84 give it before extension. -/

namespace Sys2Proof

/-- The field layouts of instruction words (30_encoding.md R72 to R79). -/
inductive Shape where
  | R | I | S | B | U | J | F | E
  deriving DecidableEq, Repr

/-- The instructions, in the order of the opcode table (30_encoding.md R87). Operands stand in the order of the
assembly syntax (R93), so a store is `sw rs2 rs1 imm`. -/
inductive Instr where
  /-- R120. `imm` is w[31:12]. -/
  | lui (rd : RegIdx) (imm : BitVec 20)
  /-- R121. `imm` is w[31:12]. -/
  | auipc (rd : RegIdx) (imm : BitVec 20)
  /-- R122. `off` is the 21-bit offset of R84, bit 0 included. -/
  | jal (rd : RegIdx) (off : BitVec 21)
  /-- R123. -/
  | jalr (rd rs1 : RegIdx) (imm : BitVec 12)
  /-- R131. `off` is the 13-bit offset of R82, bit 0 included. -/
  | beq (rs1 rs2 : RegIdx) (off : BitVec 13)
  /-- R132. `off` is the 13-bit offset of R82, bit 0 included. -/
  | bne (rs1 rs2 : RegIdx) (off : BitVec 13)
  /-- R133. `off` is the 13-bit offset of R82, bit 0 included. -/
  | blt (rs1 rs2 : RegIdx) (off : BitVec 13)
  /-- R134. `off` is the 13-bit offset of R82, bit 0 included. -/
  | bge (rs1 rs2 : RegIdx) (off : BitVec 13)
  /-- R135. `off` is the 13-bit offset of R82, bit 0 included. -/
  | bltu (rs1 rs2 : RegIdx) (off : BitVec 13)
  /-- R136. `off` is the 13-bit offset of R82, bit 0 included. -/
  | bgeu (rs1 rs2 : RegIdx) (off : BitVec 13)
  /-- R141. -/
  | lb (rd rs1 : RegIdx) (imm : BitVec 12)
  /-- R142. -/
  | lh (rd rs1 : RegIdx) (imm : BitVec 12)
  /-- R143. -/
  | lw (rd rs1 : RegIdx) (imm : BitVec 12)
  /-- R144. -/
  | lbu (rd rs1 : RegIdx) (imm : BitVec 12)
  /-- R145. -/
  | lhu (rd rs1 : RegIdx) (imm : BitVec 12)
  /-- R146. -/
  | sb (rs2 rs1 : RegIdx) (imm : BitVec 12)
  /-- R147. -/
  | sh (rs2 rs1 : RegIdx) (imm : BitVec 12)
  /-- R148. -/
  | sw (rs2 rs1 : RegIdx) (imm : BitVec 12)
  /-- R151. -/
  | addi (rd rs1 : RegIdx) (imm : BitVec 12)
  /-- R152. -/
  | slti (rd rs1 : RegIdx) (imm : BitVec 12)
  /-- R153. -/
  | sltiu (rd rs1 : RegIdx) (imm : BitVec 12)
  /-- R154. -/
  | xori (rd rs1 : RegIdx) (imm : BitVec 12)
  /-- R155. -/
  | ori (rd rs1 : RegIdx) (imm : BitVec 12)
  /-- R156. -/
  | andi (rd rs1 : RegIdx) (imm : BitVec 12)
  /-- R157. `shamt` is w[24:20] (R150). -/
  | slli (rd rs1 : RegIdx) (shamt : BitVec 5)
  /-- R158. `shamt` is w[24:20] (R150). -/
  | srli (rd rs1 : RegIdx) (shamt : BitVec 5)
  /-- R159. `shamt` is w[24:20] (R150). -/
  | srai (rd rs1 : RegIdx) (shamt : BitVec 5)
  /-- R166. -/
  | add (rd rs1 rs2 : RegIdx)
  /-- R167. -/
  | sub (rd rs1 rs2 : RegIdx)
  /-- R168. -/
  | sll (rd rs1 rs2 : RegIdx)
  /-- R169. -/
  | slt (rd rs1 rs2 : RegIdx)
  /-- R170. -/
  | sltu (rd rs1 rs2 : RegIdx)
  /-- R171. -/
  | xor (rd rs1 rs2 : RegIdx)
  /-- R172. -/
  | srl (rd rs1 rs2 : RegIdx)
  /-- R173. -/
  | sra (rd rs1 rs2 : RegIdx)
  /-- R174. -/
  | or (rd rs1 rs2 : RegIdx)
  /-- R175. -/
  | and (rd rs1 rs2 : RegIdx)
  /-- R190: every MISC-MEM word. -/
  | fence
  /-- R191, and every SYSTEM word other than EBREAK's (R193; log entry 8). -/
  | ecall
  /-- R192. -/
  | ebreak
  deriving DecidableEq, Repr

end Sys2Proof
end

