-- ==== Sys2Proof/Decode.lean ====
section
/-! DEFINITION. Decode and encode (30_encoding.md R70 to R91; 40_step.md R103, R105; 60_exceptions.md R201, R202).
The decoder is total on every 32-bit word: it answers an instruction, a DecodeFault or an ExecutionFault, each with
the information R201 and R202 say it carries. -/

namespace Sys2Proof

/-! ## Byte order (20_memory.md R53, R54, R55) -/

/-- Byte `k` of a word, bits 8k+7:8k (R53, R54). -/
def wordByte (v : Word) (k : Nat) : Byte := v.extractLsb' (8 * k) 8

/-- The halfword whose low byte is `b0` (R53, n = 2). -/
def joinHalf (b0 b1 : Byte) : BitVec 16 := b1 ++ b0

/-- The word whose lowest byte is `b0` (R53, n = 4; R101). -/
def joinWord (b0 b1 b2 b3 : Byte) : Word := b3 ++ b2 ++ b1 ++ b0

/-! ## Fields (R71, R73 to R84): each is its own bit range of the word (R85) -/

/-- w[6:0] (R71). -/
def opcodeOf (w : Word) : BitVec 7 := w.extractLsb' 0 7
/-- w[11:7] (R73). -/
def rdOf (w : Word) : RegIdx := w.extractLsb' 7 5
/-- w[14:12] (R73). -/
def funct3Of (w : Word) : BitVec 3 := w.extractLsb' 12 3
/-- w[19:15] (R73). -/
def rs1Of (w : Word) : RegIdx := w.extractLsb' 15 5
/-- w[24:20] (R73). -/
def rs2Of (w : Word) : RegIdx := w.extractLsb' 20 5
/-- funct7 bit 5, w[30] (R73, R86). -/
def altBitOf (w : Word) : Bool := w.getLsbD 30
/-- w[24:20], the shift amount of a shift immediate (R150). -/
def shamtOf (w : Word) : BitVec 5 := w.extractLsb' 20 5
/-- w[31:20] (R74, R80). -/
def immIOf (w : Word) : BitVec 12 := w.extractLsb' 20 12
/-- w[31:25], w[11:7] (R75, R81). -/
def immSOf (w : Word) : BitVec 12 := w.extractLsb' 25 7 ++ w.extractLsb' 7 5
/-- w[31], w[7], w[30:25], w[11:8], 0 (R76, R82). -/
def immBOf (w : Word) : BitVec 13 :=
  w.extractLsb' 31 1 ++ w.extractLsb' 7 1 ++ w.extractLsb' 25 6 ++ w.extractLsb' 8 4 ++ 0#1
/-- w[31:12] (R77, R83). -/
def immUOf (w : Word) : BitVec 20 := w.extractLsb' 12 20
/-- w[31], w[19:12], w[20], w[30:21], 0 (R78, R84). -/
def immJOf (w : Word) : BitVec 21 :=
  w.extractLsb' 31 1 ++ w.extractLsb' 12 8 ++ w.extractLsb' 20 1 ++ w.extractLsb' 21 10 ++ 0#1

/-! ## Decode -/

/-- Why a word is no instruction. -/
inductive DecodeError where
  /-- The opcode has no shape (R89, R201). -/
  | decodeFault (opcode : BitVec 7)
  /-- The shape is known and the key has no dispatch entry (R88, R202). -/
  | executionFault (opcode : BitVec 7) (funct3 : BitVec 3)
  deriving DecidableEq, Repr

/-- The opcode to shape table, its eleven entries (R72). -/
def shapeOf (opcode : BitVec 7) : Option Shape :=
  match opcode with
  | 0b0110111#7 => some .U   -- LUI
  | 0b0010111#7 => some .U   -- AUIPC
  | 0b1101111#7 => some .J   -- JAL
  | 0b1100111#7 => some .I   -- JALR
  | 0b1100011#7 => some .B   -- BRANCH
  | 0b0000011#7 => some .I   -- LOAD
  | 0b0100011#7 => some .S   -- STORE
  | 0b0010011#7 => some .I   -- OP-IMM
  | 0b0110011#7 => some .R   -- OP
  | 0b0001111#7 => some .F   -- MISC-MEM
  | 0b1110011#7 => some .E   -- SYSTEM
  | _ => none

/-- BRANCH rows of the dispatch table (R87; R88 for the two keys it lacks). -/
def dispatchBranch (funct3 : BitVec 3) (rs1 rs2 : RegIdx) (off : BitVec 13) : Option Instr :=
  match funct3 with
  | 0b000#3 => some (.beq rs1 rs2 off)
  | 0b001#3 => some (.bne rs1 rs2 off)
  | 0b100#3 => some (.blt rs1 rs2 off)
  | 0b101#3 => some (.bge rs1 rs2 off)
  | 0b110#3 => some (.bltu rs1 rs2 off)
  | 0b111#3 => some (.bgeu rs1 rs2 off)
  | _ => none

/-- LOAD rows (R87; R88 for the three keys it lacks). -/
def dispatchLoad (funct3 : BitVec 3) (rd rs1 : RegIdx) (imm : BitVec 12) : Option Instr :=
  match funct3 with
  | 0b000#3 => some (.lb rd rs1 imm)
  | 0b001#3 => some (.lh rd rs1 imm)
  | 0b010#3 => some (.lw rd rs1 imm)
  | 0b100#3 => some (.lbu rd rs1 imm)
  | 0b101#3 => some (.lhu rd rs1 imm)
  | _ => none

/-- STORE rows (R87; R88 for the five keys it lacks). -/
def dispatchStore (funct3 : BitVec 3) (rs2 rs1 : RegIdx) (imm : BitVec 12) : Option Instr :=
  match funct3 with
  | 0b000#3 => some (.sb rs2 rs1 imm)
  | 0b001#3 => some (.sh rs2 rs1 imm)
  | 0b010#3 => some (.sw rs2 rs1 imm)
  | _ => none

/-- OP-IMM rows, all eight funct3 values (R87, R150). `alt` is w[30], examined for funct3 101 alone; no other bit
of w[31:25] is examined for a shift (R90). -/
def dispatchOpImm (funct3 : BitVec 3) (alt : Bool) (rd rs1 : RegIdx) (imm : BitVec 12) (shamt : BitVec 5) : Option Instr :=
  match funct3 with
  | 0b000#3 => some (.addi rd rs1 imm)
  | 0b010#3 => some (.slti rd rs1 imm)
  | 0b011#3 => some (.sltiu rd rs1 imm)
  | 0b100#3 => some (.xori rd rs1 imm)
  | 0b110#3 => some (.ori rd rs1 imm)
  | 0b111#3 => some (.andi rd rs1 imm)
  | 0b001#3 => some (.slli rd rs1 shamt)
  | 0b101#3 => if alt then some (.srai rd rs1 shamt) else some (.srli rd rs1 shamt)
  | _ => none

/-- OP rows, all eight funct3 values (R87, R165). `alt` is w[30], examined for funct3 000 and 101 alone; no other
funct7 bit is examined (R90, R177). -/
def dispatchOp (funct3 : BitVec 3) (alt : Bool) (rd rs1 rs2 : RegIdx) : Option Instr :=
  match funct3 with
  | 0b000#3 => if alt then some (.sub rd rs1 rs2) else some (.add rd rs1 rs2)
  | 0b001#3 => some (.sll rd rs1 rs2)
  | 0b010#3 => some (.slt rd rs1 rs2)
  | 0b011#3 => some (.sltu rd rs1 rs2)
  | 0b100#3 => some (.xor rd rs1 rs2)
  | 0b101#3 => if alt then some (.sra rd rs1 rs2) else some (.srl rd rs1 rs2)
  | 0b110#3 => some (.or rd rs1 rs2)
  | 0b111#3 => some (.and rd rs1 rs2)
  | _ => none

/-- The SYSTEM row: shape E carries the opcode alone, so every word halts (R79, R191, R192, R193). The two names
are told apart by the word R192 gives EBREAK; the effect is the same (DESIGN CHOICE, log entry 8). -/
def dispatchSystem (w : Word) : Instr := if w = 0x00100073#32 then .ebreak else .ecall

/-- The dispatch table (R86, R87). `none` where the key has no entry (R88). -/
def dispatch (w : Word) : Option Instr :=
  match opcodeOf w with
  | 0b0110111#7 => some (.lui (rdOf w) (immUOf w))
  | 0b0010111#7 => some (.auipc (rdOf w) (immUOf w))
  | 0b1101111#7 => some (.jal (rdOf w) (immJOf w))
  | 0b1100111#7 => if funct3Of w = 0b000#3 then some (.jalr (rdOf w) (rs1Of w) (immIOf w)) else none
  | 0b1100011#7 => dispatchBranch (funct3Of w) (rs1Of w) (rs2Of w) (immBOf w)
  | 0b0000011#7 => dispatchLoad (funct3Of w) (rdOf w) (rs1Of w) (immIOf w)
  | 0b0100011#7 => dispatchStore (funct3Of w) (rs2Of w) (rs1Of w) (immSOf w)
  | 0b0010011#7 => dispatchOpImm (funct3Of w) (altBitOf w) (rdOf w) (rs1Of w) (immIOf w) (shamtOf w)
  | 0b0110011#7 => dispatchOp (funct3Of w) (altBitOf w) (rdOf w) (rs1Of w) (rs2Of w)
  | 0b0001111#7 => some .fence
  | 0b1110011#7 => some (dispatchSystem w)
  | _ => none

/-- Decode a word (R103, R105, R108 steps 4, 5 and 7): the shape first, then the dispatch key (R208). -/
def decodeWord (w : Word) : Except DecodeError Instr :=
  match shapeOf (opcodeOf w) with
  | none => .error (.decodeFault (opcodeOf w))
  | some _ =>
    match dispatch w with
    | none => .error (.executionFault (opcodeOf w) (funct3Of w))
    | some i => .ok i

/-- Decode four bytes in the order they stand in memory (R70, R101). -/
def decodeBytes (b0 b1 b2 b3 : Byte) : Except DecodeError Instr := decodeWord (joinWord b0 b1 b2 b3)

/-- The low `nbits` bits of `w` as an instruction word, the bits above them 0. -/
def tableWord (nbits w : Nat) : Word := BitVec.ofNat 32 (w % 2 ^ nbits)

/-- The instruction the decoder reads from a word numbered as spec/opcode_table.json numbers it, laid out as bytes
with the lowest address first. -/
def decodeTableWord (nbits w : Nat) : Option Instr :=
  let v := tableWord nbits w
  match decodeBytes (wordByte v 0) (wordByte v 1) (wordByte v 2) (wordByte v 3) with
  | .ok i => some i
  | .error _ => none

/-! ## Encode (R73 to R79, R87): bits the core does not examine are 0 (log entry 10) -/

/-- Shape R (R73). -/
def encodeR (funct7 : BitVec 7) (rs2 rs1 : RegIdx) (funct3 : BitVec 3) (rd : RegIdx) (opcode : BitVec 7) : Word :=
  funct7 ++ rs2 ++ rs1 ++ funct3 ++ rd ++ opcode

/-- Shape I (R74). -/
def encodeI (imm : BitVec 12) (rs1 : RegIdx) (funct3 : BitVec 3) (rd : RegIdx) (opcode : BitVec 7) : Word :=
  imm ++ rs1 ++ funct3 ++ rd ++ opcode

/-- Shape S (R75). -/
def encodeS (imm : BitVec 12) (rs2 rs1 : RegIdx) (funct3 : BitVec 3) (opcode : BitVec 7) : Word :=
  imm.extractLsb' 5 7 ++ rs2 ++ rs1 ++ funct3 ++ imm.extractLsb' 0 5 ++ opcode

/-- Shape B (R76). Bit 0 of the offset is not encoded. -/
def encodeB (off : BitVec 13) (rs2 rs1 : RegIdx) (funct3 : BitVec 3) (opcode : BitVec 7) : Word :=
  off.extractLsb' 12 1 ++ off.extractLsb' 5 6 ++ rs2 ++ rs1 ++ funct3 ++ off.extractLsb' 1 4 ++ off.extractLsb' 11 1 ++ opcode

/-- Shape U (R77). -/
def encodeU (imm : BitVec 20) (rd : RegIdx) (opcode : BitVec 7) : Word := imm ++ rd ++ opcode

/-- Shape J (R78). Bit 0 of the offset is not encoded. -/
def encodeJ (off : BitVec 21) (rd : RegIdx) (opcode : BitVec 7) : Word :=
  off.extractLsb' 20 1 ++ off.extractLsb' 1 10 ++ off.extractLsb' 11 1 ++ off.extractLsb' 12 8 ++ rd ++ opcode

/-- The word of a well-formed instruction (R87). FENCE, ECALL and EBREAK take the words R190 to R192 give. -/
def encode : Instr → Word
  | .lui rd imm => encodeU imm rd 0b0110111#7
  | .auipc rd imm => encodeU imm rd 0b0010111#7
  | .jal rd off => encodeJ off rd 0b1101111#7
  | .jalr rd rs1 imm => encodeI imm rs1 0b000#3 rd 0b1100111#7
  | .beq rs1 rs2 off => encodeB off rs2 rs1 0b000#3 0b1100011#7
  | .bne rs1 rs2 off => encodeB off rs2 rs1 0b001#3 0b1100011#7
  | .blt rs1 rs2 off => encodeB off rs2 rs1 0b100#3 0b1100011#7
  | .bge rs1 rs2 off => encodeB off rs2 rs1 0b101#3 0b1100011#7
  | .bltu rs1 rs2 off => encodeB off rs2 rs1 0b110#3 0b1100011#7
  | .bgeu rs1 rs2 off => encodeB off rs2 rs1 0b111#3 0b1100011#7
  | .lb rd rs1 imm => encodeI imm rs1 0b000#3 rd 0b0000011#7
  | .lh rd rs1 imm => encodeI imm rs1 0b001#3 rd 0b0000011#7
  | .lw rd rs1 imm => encodeI imm rs1 0b010#3 rd 0b0000011#7
  | .lbu rd rs1 imm => encodeI imm rs1 0b100#3 rd 0b0000011#7
  | .lhu rd rs1 imm => encodeI imm rs1 0b101#3 rd 0b0000011#7
  | .sb rs2 rs1 imm => encodeS imm rs2 rs1 0b000#3 0b0100011#7
  | .sh rs2 rs1 imm => encodeS imm rs2 rs1 0b001#3 0b0100011#7
  | .sw rs2 rs1 imm => encodeS imm rs2 rs1 0b010#3 0b0100011#7
  | .addi rd rs1 imm => encodeI imm rs1 0b000#3 rd 0b0010011#7
  | .slti rd rs1 imm => encodeI imm rs1 0b010#3 rd 0b0010011#7
  | .sltiu rd rs1 imm => encodeI imm rs1 0b011#3 rd 0b0010011#7
  | .xori rd rs1 imm => encodeI imm rs1 0b100#3 rd 0b0010011#7
  | .ori rd rs1 imm => encodeI imm rs1 0b110#3 rd 0b0010011#7
  | .andi rd rs1 imm => encodeI imm rs1 0b111#3 rd 0b0010011#7
  | .slli rd rs1 shamt => encodeR 0b0000000#7 shamt rs1 0b001#3 rd 0b0010011#7
  | .srli rd rs1 shamt => encodeR 0b0000000#7 shamt rs1 0b101#3 rd 0b0010011#7
  | .srai rd rs1 shamt => encodeR 0b0100000#7 shamt rs1 0b101#3 rd 0b0010011#7
  | .add rd rs1 rs2 => encodeR 0b0000000#7 rs2 rs1 0b000#3 rd 0b0110011#7
  | .sub rd rs1 rs2 => encodeR 0b0100000#7 rs2 rs1 0b000#3 rd 0b0110011#7
  | .sll rd rs1 rs2 => encodeR 0b0000000#7 rs2 rs1 0b001#3 rd 0b0110011#7
  | .slt rd rs1 rs2 => encodeR 0b0000000#7 rs2 rs1 0b010#3 rd 0b0110011#7
  | .sltu rd rs1 rs2 => encodeR 0b0000000#7 rs2 rs1 0b011#3 rd 0b0110011#7
  | .xor rd rs1 rs2 => encodeR 0b0000000#7 rs2 rs1 0b100#3 rd 0b0110011#7
  | .srl rd rs1 rs2 => encodeR 0b0000000#7 rs2 rs1 0b101#3 rd 0b0110011#7
  | .sra rd rs1 rs2 => encodeR 0b0100000#7 rs2 rs1 0b101#3 rd 0b0110011#7
  | .or rd rs1 rs2 => encodeR 0b0000000#7 rs2 rs1 0b110#3 rd 0b0110011#7
  | .and rd rs1 rs2 => encodeR 0b0000000#7 rs2 rs1 0b111#3 rd 0b0110011#7
  | .fence => 0x0FF0000F#32
  | .ecall => 0x00000073#32
  | .ebreak => 0x00100073#32

/-! ## The opcode table's rows (R87, spec/opcode_table.json) -/

/-- The row's mnemonic. -/
def Instr.mnemonic : Instr → String
  | .lui _ _ => "LUI"
  | .auipc _ _ => "AUIPC"
  | .jal _ _ => "JAL"
  | .jalr _ _ _ => "JALR"
  | .beq _ _ _ => "BEQ"
  | .bne _ _ _ => "BNE"
  | .blt _ _ _ => "BLT"
  | .bge _ _ _ => "BGE"
  | .bltu _ _ _ => "BLTU"
  | .bgeu _ _ _ => "BGEU"
  | .lb _ _ _ => "LB"
  | .lh _ _ _ => "LH"
  | .lw _ _ _ => "LW"
  | .lbu _ _ _ => "LBU"
  | .lhu _ _ _ => "LHU"
  | .sb _ _ _ => "SB"
  | .sh _ _ _ => "SH"
  | .sw _ _ _ => "SW"
  | .addi _ _ _ => "ADDI"
  | .slti _ _ _ => "SLTI"
  | .sltiu _ _ _ => "SLTIU"
  | .xori _ _ _ => "XORI"
  | .ori _ _ _ => "ORI"
  | .andi _ _ _ => "ANDI"
  | .slli _ _ _ => "SLLI"
  | .srli _ _ _ => "SRLI"
  | .srai _ _ _ => "SRAI"
  | .add _ _ _ => "ADD"
  | .sub _ _ _ => "SUB"
  | .sll _ _ _ => "SLL"
  | .slt _ _ _ => "SLT"
  | .sltu _ _ _ => "SLTU"
  | .xor _ _ _ => "XOR"
  | .srl _ _ _ => "SRL"
  | .sra _ _ _ => "SRA"
  | .or _ _ _ => "OR"
  | .and _ _ _ => "AND"
  | .fence => "FENCE"
  | .ecall => "ECALL"
  | .ebreak => "EBREAK"

/-- The bits of the word this core examines to select the row. -/
def Instr.rowMask : Instr → Word
  | .lui _ _ => 0x0000007F#32
  | .auipc _ _ => 0x0000007F#32
  | .jal _ _ => 0x0000007F#32
  | .jalr _ _ _ => 0x0000707F#32
  | .beq _ _ _ => 0x0000707F#32
  | .bne _ _ _ => 0x0000707F#32
  | .blt _ _ _ => 0x0000707F#32
  | .bge _ _ _ => 0x0000707F#32
  | .bltu _ _ _ => 0x0000707F#32
  | .bgeu _ _ _ => 0x0000707F#32
  | .lb _ _ _ => 0x0000707F#32
  | .lh _ _ _ => 0x0000707F#32
  | .lw _ _ _ => 0x0000707F#32
  | .lbu _ _ _ => 0x0000707F#32
  | .lhu _ _ _ => 0x0000707F#32
  | .sb _ _ _ => 0x0000707F#32
  | .sh _ _ _ => 0x0000707F#32
  | .sw _ _ _ => 0x0000707F#32
  | .addi _ _ _ => 0x0000707F#32
  | .slti _ _ _ => 0x0000707F#32
  | .sltiu _ _ _ => 0x0000707F#32
  | .xori _ _ _ => 0x0000707F#32
  | .ori _ _ _ => 0x0000707F#32
  | .andi _ _ _ => 0x0000707F#32
  | .slli _ _ _ => 0x0000707F#32
  | .srli _ _ _ => 0x4000707F#32
  | .srai _ _ _ => 0x4000707F#32
  | .add _ _ _ => 0x4000707F#32
  | .sub _ _ _ => 0x4000707F#32
  | .sll _ _ _ => 0x0000707F#32
  | .slt _ _ _ => 0x0000707F#32
  | .sltu _ _ _ => 0x0000707F#32
  | .xor _ _ _ => 0x0000707F#32
  | .srl _ _ _ => 0x4000707F#32
  | .sra _ _ _ => 0x4000707F#32
  | .or _ _ _ => 0x0000707F#32
  | .and _ _ _ => 0x0000707F#32
  | .fence => 0x0000007F#32
  | .ecall => 0x0000007F#32
  | .ebreak => 0x0000007F#32

/-- The value of those bits in the row. -/
def Instr.rowMatch : Instr → Word
  | .lui _ _ => 0x00000037#32
  | .auipc _ _ => 0x00000017#32
  | .jal _ _ => 0x0000006F#32
  | .jalr _ _ _ => 0x00000067#32
  | .beq _ _ _ => 0x00000063#32
  | .bne _ _ _ => 0x00001063#32
  | .blt _ _ _ => 0x00004063#32
  | .bge _ _ _ => 0x00005063#32
  | .bltu _ _ _ => 0x00006063#32
  | .bgeu _ _ _ => 0x00007063#32
  | .lb _ _ _ => 0x00000003#32
  | .lh _ _ _ => 0x00001003#32
  | .lw _ _ _ => 0x00002003#32
  | .lbu _ _ _ => 0x00004003#32
  | .lhu _ _ _ => 0x00005003#32
  | .sb _ _ _ => 0x00000023#32
  | .sh _ _ _ => 0x00001023#32
  | .sw _ _ _ => 0x00002023#32
  | .addi _ _ _ => 0x00000013#32
  | .slti _ _ _ => 0x00002013#32
  | .sltiu _ _ _ => 0x00003013#32
  | .xori _ _ _ => 0x00004013#32
  | .ori _ _ _ => 0x00006013#32
  | .andi _ _ _ => 0x00007013#32
  | .slli _ _ _ => 0x00001013#32
  | .srli _ _ _ => 0x00005013#32
  | .srai _ _ _ => 0x40005013#32
  | .add _ _ _ => 0x00000033#32
  | .sub _ _ _ => 0x40000033#32
  | .sll _ _ _ => 0x00001033#32
  | .slt _ _ _ => 0x00002033#32
  | .sltu _ _ _ => 0x00003033#32
  | .xor _ _ _ => 0x00004033#32
  | .srl _ _ _ => 0x00005033#32
  | .sra _ _ _ => 0x40005033#32
  | .or _ _ _ => 0x00006033#32
  | .and _ _ _ => 0x00007033#32
  | .fence => 0x0000000F#32
  | .ecall => 0x00000073#32
  | .ebreak => 0x00000073#32

end Sys2Proof
end

