-- ==== Sys2Proof/Config.lean ====
section
/-! DEFINITION. What is fixed for one machine and the free value of the host's port
(00_scope.md R7, R8, R9; 20_memory.md R51, R52). -/

namespace Sys2Proof

/-- One operation on the memory port (20_memory.md R51): a byte read with the byte that came back, or a byte
write. The history of these is what a host read may depend on (R52). -/
inductive PortOp where
  | read (address : Word) (value : Byte)
  | write (address : Word) (value : Byte)
  deriving DecidableEq, Repr

/-- FREE VALUE (20_memory.md R52, I1, I4; log entry 4): what the host answers to a read of an address that it
does not back with storage, given every port operation so far (newest first) and the address. It has no body,
so nothing can be proved about the byte beyond its width. -/
opaque Config.hostByte : List PortOp → Word → Byte

/-- REG_INIT (00_scope.md R7, D2), an OPEN parameter. DESIGN CHOICE (log entry 2), used by `State.reset` alone:
the example value of 95_test_vectors.md. `initializeCore` takes the parameter as an argument. -/
def Config.regInit : Word := 0x000FFFFF#32

/-- RESET_ADDR (00_scope.md R8), an argument of each reset. DESIGN CHOICE (log entry 1), used by `State.reset`
alone. `initializeCore` takes the parameter as an argument. -/
def Config.resetAddress : Word := 0x00000000#32

end Sys2Proof
end

