-- ==== Sys2Proof/Machine/State.lean ====
section
/-! DEFINITION. The machine's state (10_state.md R20 to R34; 20_memory.md R50, R52), the reasons a step can stop, and
the state right after reset (70_reset_and_hazards.md R230). -/

namespace Sys2Proof.Machine

/-- Why the machine would stop with a `Host.Outcome.fault`. It has no constructor, since nothing raises one: the
spec's two faults are next states with the fault status set (40_step.md R108; 60_exceptions.md R203), and a memory
access never fails (20_memory.md R51). Safe: no hardware behaviour is cut short by it (log entry 7). -/
inductive Fault where
  deriving DecidableEq, Repr

/-- Why the model would have no meaning for an instruction. -/
inductive Refusal where
  /-- Raised only by an arm of `exec` whose instruction has no meaning yet. No arm raises it. Safe: the model would
  stop where the hardware goes on. -/
  | notModelled (mnemonic : String)
  deriving DecidableEq, Repr

/-- The fault status (10_state.md R27). The 2-bit codes are `FaultStatus.code`; the value 0b11 is never written. -/
inductive FaultStatus where
  | none
  | decode
  | exec
  deriving DecidableEq, Repr

/-- A range of `size` addresses from `base`, counted modulo 2^32, that the host does not back with storage
(20_memory.md R52): a device register or an ignored address. -/
structure Region where
  base : Word
  size : Nat
  deriving DecidableEq, Repr

/-- The contents of the host's storage (`HOST_RAM`, R52): (address, byte) pairs, addresses strictly rising, no entry
equal to what an unlisted address reads as (`Memory.wf`). -/
abbrev Memory := List Host.Cell

/-- Everything the spec gives the machine, and beside it the host that its port reaches. -/
structure State where
  /-- x0 to x31 (R20). x0 is read and written through `readReg` and `writeReg` alone, which hard-wire it (R21). -/
  regs : Vector Word 32
  /-- The program counter (R24). -/
  pc : Word
  /-- The halt flag (R26). -/
  jammed : Bool
  /-- The fault status (R27). -/
  fault : FaultStatus
  /-- Host state: the bytes of `HOST_RAM` (R52). -/
  mem : Memory
  /-- The model's own: the addresses the host does not back with storage; a read of one is an oracle (R52; log entry 4). -/
  oracleRegions : List Region
  /-- The model's own: every port operation so far, newest first (R52, R57; log entry 5). -/
  portLog : List PortOp
  deriving DecidableEq, Repr

/-- The machine right after `initialize` (R34, R230): pc the reset address, x0 zero, x1 to x31 REG_INIT, not halted,
no fault. The two parameters are named by log entries 1 and 2; the host's side is `HOST_RAM` with nothing written
(log entries 3, 4 and 5). -/
def State.reset : State where
  regs := (Vector.replicate 32 Config.regInit).set 0 0#32
  pc := Config.resetAddress
  jammed := false
  fault := .none
  mem := []
  oracleRegions := []
  portLog := []

/-- What `step()` reports to its caller (40_step.md R111), with what a fault carries (60_exceptions.md R201, R202). -/
inductive StepReport where
  | ok
  | halted
  | decodeFault (opcode : BitVec 7)
  | executionFault (opcode : BitVec 7) (funct3 : BitVec 3)
  | noop
  deriving DecidableEq, Repr

end Sys2Proof.Machine
end

