-- ==== Sys2Proof/Machine/Ops.lean ====
section
/-! DEFINITION. The named operations over registers, memory, the port and the control state (10_state.md R21, R26, R27;
20_memory.md R51 to R54; 40_step.md R101, R102; 60_exceptions.md R201 to R204; 70_reset_and_hazards.md R230). -/

namespace Sys2Proof.Machine

/-! ## One field at a time -/

def State.setRegs (s : State) (v : Vector Word 32) : State := { s with regs := v }
def State.setPc (s : State) (v : Word) : State := { s with pc := v }
def State.setJammed (s : State) (v : Bool) : State := { s with jammed := v }
def State.setFault (s : State) (v : FaultStatus) : State := { s with fault := v }
def State.setMem (s : State) (v : Memory) : State := { s with mem := v }
def State.setOracleRegions (s : State) (v : List Region) : State := { s with oracleRegions := v }
def State.setPortLog (s : State) (v : List PortOp) : State := { s with portLog := v }

/-! ## Registers -/

/-- `x[r]` (R13, R21): x0 reads 0 whatever its slot holds, which is what forcing it before execution gives (R104). -/
def readReg (s : State) (r : RegIdx) : Word := if r = 0#5 then 0#32 else s.regs[r.toNat]'r.isLt

/-- `x[r] <- v` (R13, R21): a write to x0 has no effect (R106). -/
def writeReg (s : State) (r : RegIdx) (v : Word) : State :=
  if r = 0#5 then s else s.setRegs (s.regs.set r.toNat v r.isLt)

/-! ## Storage (`HOST_RAM`, 20_memory.md R52) -/

/-- What an unlisted address reads as. DESIGN CHOICE (log entry 3): the convention of 95_test_vectors.md. -/
def Memory.unlistedByte : Byte := 0x00#8

/-- The byte at an address: the byte last written there, or the unlisted byte (R52). -/
def Memory.read (m : Memory) (a : Nat) : Byte :=
  match m with
  | [] => Memory.unlistedByte
  | (k, b) :: rest => if k = a then b else Memory.read rest a

/-- Store a byte, keeping the canonical form. -/
def Memory.write (m : Memory) (a : Nat) (v : Byte) : Memory :=
  match m with
  | [] => if v = Memory.unlistedByte then [] else [(a, v)]
  | (k, b) :: rest =>
    if a < k then (if v = Memory.unlistedByte then (k, b) :: rest else (a, v) :: (k, b) :: rest)
    else if a = k then (if v = Memory.unlistedByte then rest else (a, v) :: rest)
    else (k, b) :: Memory.write rest a v

/-- The canonical form from the address `lo` on. -/
def Memory.wfFrom (lo : Nat) (m : Memory) : Bool :=
  match m with
  | [] => true
  | (k, b) :: rest => decide (lo ≤ k) && decide (k < 2 ^ 32) && !(b == Memory.unlistedByte) && Memory.wfFrom (k + 1) rest

/-- The canonical form: addresses strictly rising and inside the space, no entry equal to the unlisted byte. -/
def Memory.wf (m : Memory) : Bool := Memory.wfFrom 0 m

/-- One byte of storage: what `HOST_RAM` holds at an address. -/
def ramByte (s : State) (a : Word) : Byte := Memory.read s.mem a.toNat

/-! ## The port (20_memory.md R51) -/

/-- The address lies in the region, counted modulo 2^32. -/
def Region.contains (r : Region) (a : Word) : Bool := decide ((a - r.base).toNat < r.size)

/-- The host does not back the address with storage (R52). -/
def isOracle (s : State) (a : Word) : Bool := s.oracleRegions.any (fun r => r.contains a)

/-- What a read of the address would answer now: the stored byte, or the host's free value (R52). -/
def portByte (s : State) (a : Word) : Byte := if isOracle s a then Config.hostByte s.portLog a else ramByte s a

/-- Append one operation to the history. -/
def logPort (op : PortOp) (s : State) : State := s.setPortLog (op :: s.portLog)

/-- `ReadByte(a)` (R51): it never fails, and it is one operation of the history. -/
def readByte (a : Word) (s : State) : Byte × State := (portByte s a, logPort (.read a (portByte s a)) s)

/-- `WriteByte(a, b)` (R51): storage takes the byte; what a device or an ignored address makes of it is the host's,
and shows only in later oracle reads (R52). -/
def writeByte (a : Word) (b : Byte) (s : State) : State :=
  logPort (.write a b) (if isOracle s a then s else s.setMem (Memory.write s.mem a.toNat b))

/-- `MemRead(a, 1)` (R53). -/
def memRead1 (a : Word) (s : State) : Byte × State := readByte a s

/-- `MemRead(a, 2)` (R53): ascending, addresses modulo 2^32, low byte first. -/
def memRead2 (a : Word) (s : State) : BitVec 16 × State :=
  match readByte a s with
  | (b0, s1) =>
    match readByte (a + 1#32) s1 with
    | (b1, s2) => (joinHalf b0 b1, s2)

/-- `MemRead(a, 4)` (R53). -/
def memRead4 (a : Word) (s : State) : Word × State :=
  match readByte a s with
  | (b0, s1) =>
    match readByte (a + 1#32) s1 with
    | (b1, s2) =>
      match readByte (a + 2#32) s2 with
      | (b2, s3) =>
        match readByte (a + 3#32) s3 with
        | (b3, s4) => (joinWord b0 b1 b2 b3, s4)

/-- `MemWrite(a, 1, v)` (R54). -/
def memWrite1 (a : Word) (v : Word) (s : State) : State := writeByte a (wordByte v 0) s

/-- `MemWrite(a, 2, v)` (R54): ascending, addresses modulo 2^32. -/
def memWrite2 (a : Word) (v : Word) (s : State) : State :=
  writeByte (a + 1#32) (wordByte v 1) (writeByte a (wordByte v 0) s)

/-- `MemWrite(a, 4, v)` (R54). -/
def memWrite4 (a : Word) (v : Word) (s : State) : State :=
  writeByte (a + 3#32) (wordByte v 3) (writeByte (a + 2#32) (wordByte v 2)
    (writeByte (a + 1#32) (wordByte v 1) (writeByte a (wordByte v 0) s)))

/-! ## Fetch (40_step.md R101, R102) -/

/-- The word at `pc` and the state after its four reads (R101). -/
def fetch (s : State) : Word × State := memRead4 s.pc s

/-- The word the next step would fetch. -/
def fetchWord (s : State) : Word := (fetch s).1

/-- The state in which the fetched word is decoded and executed: four reads issued, `pc` advanced by 4 modulo 2^32
(R102). -/
def afterFetch (s : State) : State := (fetch s).2.setPc (s.pc + 4#32)

/-- `A`, the address of the instruction being executed: the post-fetch `pc` minus 4 (R16; log entry 9). -/
def instrAddr (s : State) : Word := s.pc - 4#32

/-! ## Stopping, and the only way out -/

/-- A step would be a no-op (R100). -/
def stopped (s : State) : Bool := s.jammed || !(s.fault == .none)

/-- The fault status a decode error raises (R201, R202). -/
def faultOf : DecodeError → FaultStatus
  | .decodeFault _ => .decode
  | .executionFault _ _ => .exec

/-- Taking a fault (R15, R201, R202, R203): the fault status is set and nothing else changes. There is no handler,
no saved register and no vector (R209). -/
def takeFault (e : DecodeError) (s : State) : State := s.setFault (faultOf e)

/-- `halt()` (R15, R191): the halt flag is set and nothing else changes (R205). -/
def halt (s : State) : State := s.setJammed true

/-- The host operation that (re)starts the core (R230), from any state: the core's state is replaced whole, memory
and the host are not touched (R232). There is no other way out of a halt or a fault (R210). -/
def initializeCore (regInit resetAddress : Word) (s : State) : State :=
  (((s.setRegs ((Vector.replicate 32 regInit).set 0 0#32)).setPc resetAddress).setJammed false).setFault .none

/-! ## The host's side of the address space (R40, R234): no port operation of the core, so nothing is logged -/

/-- The host puts a byte into storage: a program image or data. -/
def placeByte (a : Word) (b : Byte) (s : State) : State := s.setMem (Memory.write s.mem a.toNat b)

/-- The host loads an image at an address, ascending, modulo 2^32 (R234). -/
def loadImage (a : Word) (image : List Byte) (s : State) : State :=
  match image with
  | [] => s
  | b :: rest => loadImage (a + 1#32) rest (placeByte a b s)

/-- The host backs the four bytes at `pc` with storage: every oracle region that covers one of them goes. -/
def backFetch (s : State) : State :=
  s.setOracleRegions (s.oracleRegions.filter (fun r =>
    !(r.contains s.pc || r.contains (s.pc + 1#32) || r.contains (s.pc + 2#32) || r.contains (s.pc + 3#32))))

/-- The host places one instruction word where the next step fetches, in a running core (log entry 6). -/
def placeWord (v : Word) (s : State) : State :=
  loadImage s.pc [wordByte v 0, wordByte v 1, wordByte v 2, wordByte v 3]
    (((backFetch s).setJammed false).setFault .none)

end Sys2Proof.Machine
end

