-- ==== Sys2Proof/Machine/Operands.lean ====
section
/-! DEFINITION. Every operand form of the core (30_encoding.md R80 to R84; 43_loads_stores.md R140; 44_alu_immediate.md
R150; 45_alu_register.md R165): the sign- and zero-extensions, the immediates as 32-bit words, the shift amounts, the
effective address and the branch and jump targets. -/

namespace Sys2Proof.Machine

/-- `sext_N` (R12). -/
def sext {n : Nat} (v : BitVec n) : Word := v.signExtend 32

/-- `zext_N` (R12). -/
def zext {n : Nat} (v : BitVec n) : Word := v.setWidth 32

/-- imm_I and imm_S as words (R80, R81). -/
def immWord (imm : BitVec 12) : Word := sext imm

/-- imm_U: the 20 bits with 12 zero bits below (R83). -/
def upperWord (imm : BitVec 20) : Word := imm ++ 0#12

/-- The shift amount of a shift immediate (R150). -/
def shamtImm (shamt : BitVec 5) : Nat := shamt.toNat

/-- The shift amount a register gives: its low 5 bits (R165). -/
def shamtReg (v : Word) : Nat := (v &&& 0x1F#32).toNat

/-- EA, base plus displacement modulo 2^32 (R140). -/
def effAddr (s : State) (rs1 : RegIdx) (imm : BitVec 12) : Word := readReg s rs1 + immWord imm

/-- A branch target, A plus the offset (R130). -/
def branchTarget (s : State) (off : BitVec 13) : Word := instrAddr s + sext off

/-- A JAL target, A plus the offset (R122). -/
def jumpTarget (s : State) (off : BitVec 21) : Word := instrAddr s + sext off

/-- A JALR target: the sum with bit 0 cleared (R123). -/
def indirectTarget (s : State) (rs1 : RegIdx) (imm : BitVec 12) : Word :=
  (readReg s rs1 + immWord imm) &&& 0xFFFFFFFE#32

/-- The return address a jump links: A + 4, the post-fetch `pc` (R122, R123). -/
def linkAddr (s : State) : Word := s.pc

end Sys2Proof.Machine
end

