-- ==== Sys2Proof/Machine/Flags.lean ====
section
/-! DEFINITION. The core has no condition codes (10_state.md R28): a comparison gives a Boolean, which a set-less-than
instruction writes as 0 or 1 and a branch uses to choose the next pc. Beside them, the codes of the fault status
(10_state.md R27; 60_exceptions.md R200). -/

namespace Sys2Proof.Machine

/-- `bool(c)` (R11). -/
def boolWord (c : Bool) : Word := if c then 1#32 else 0#32

/-- `<s` (R11): the two's-complement readings. -/
def ltSigned (a b : Word) : Bool := BitVec.slt a b

/-- `<u` (R11): the unsigned readings. -/
def ltUnsigned (a b : Word) : Bool := BitVec.ult a b

/-- The 2-bit code of the fault status (R27). -/
def FaultStatus.code : FaultStatus → BitVec 2
  | .none => 0b00#2
  | .decode => 0b01#2
  | .exec => 0b10#2

end Sys2Proof.Machine
end

