-- ==== Sys2Proof/Machine/UpperJump.lean ====
section
/-! DEFINITION. LUI, AUIPC, JAL, JALR (41_upper_and_jumps.md R120 to R124). Each runs in the post-fetch state, where
`pc` is A + 4 (R16), and reads its sources before it writes (R13). -/

namespace Sys2Proof.Machine

/-- The shared effect: write one register and leave `pc` at A + 4. -/
def retire (rd : RegIdx) (v : Word) (s : State) : Host.Outcome State Fault Refusal := .next (writeReg s rd v)

/-- The shared effect of the jumps: link, then go (R122, R123). The target is computed by the caller from the state
before the link is written. -/
def linkAndJump (rd : RegIdx) (target : Word) (s : State) : Host.Outcome State Fault Refusal :=
  .next ((writeReg s rd (linkAddr s)).setPc target)

/-- R120. -/
def execLui (rd : RegIdx) (imm : BitVec 20) (s : State) : Host.Outcome State Fault Refusal :=
  retire rd (upperWord imm) s

/-- R121: the base is A, not A + 4. -/
def execAuipc (rd : RegIdx) (imm : BitVec 20) (s : State) : Host.Outcome State Fault Refusal :=
  retire rd (instrAddr s + upperWord imm) s

/-- R122. -/
def execJal (rd : RegIdx) (off : BitVec 21) (s : State) : Host.Outcome State Fault Refusal :=
  linkAndJump rd (jumpTarget s off) s

/-- R123: rs1 is read before rd is written. -/
def execJalr (rd rs1 : RegIdx) (imm : BitVec 12) (s : State) : Host.Outcome State Fault Refusal :=
  linkAndJump rd (indirectTarget s rs1 imm) s

end Sys2Proof.Machine
end

