-- ==== Sys2Proof/Machine/Branch.lean ====
section
/-! DEFINITION. The conditional branches (42_branches.md R130 to R136). -/

namespace Sys2Proof.Machine

/-- The shared effect of a branch (R130): on a true condition `pc` is A plus the offset, else it stays A + 4. -/
def branchIf (cond : Bool) (off : BitVec 13) (s : State) : Host.Outcome State Fault Refusal :=
  .next (if cond then s.setPc (branchTarget s off) else s)

/-- R131. -/
def execBeq (rs1 rs2 : RegIdx) (off : BitVec 13) (s : State) : Host.Outcome State Fault Refusal :=
  branchIf (readReg s rs1 == readReg s rs2) off s

/-- R132. -/
def execBne (rs1 rs2 : RegIdx) (off : BitVec 13) (s : State) : Host.Outcome State Fault Refusal :=
  branchIf (!(readReg s rs1 == readReg s rs2)) off s

/-- R133. -/
def execBlt (rs1 rs2 : RegIdx) (off : BitVec 13) (s : State) : Host.Outcome State Fault Refusal :=
  branchIf (ltSigned (readReg s rs1) (readReg s rs2)) off s

/-- R134. -/
def execBge (rs1 rs2 : RegIdx) (off : BitVec 13) (s : State) : Host.Outcome State Fault Refusal :=
  branchIf (!ltSigned (readReg s rs1) (readReg s rs2)) off s

/-- R135. -/
def execBltu (rs1 rs2 : RegIdx) (off : BitVec 13) (s : State) : Host.Outcome State Fault Refusal :=
  branchIf (ltUnsigned (readReg s rs1) (readReg s rs2)) off s

/-- R136. -/
def execBgeu (rs1 rs2 : RegIdx) (off : BitVec 13) (s : State) : Host.Outcome State Fault Refusal :=
  branchIf (!ltUnsigned (readReg s rs1) (readReg s rs2)) off s

end Sys2Proof.Machine
end

