-- ==== Sys2Proof/Machine/LoadStore.lean ====
section
/-! DEFINITION. Loads and stores (43_loads_stores.md R140 to R148). The effective address is computed from the
registers before the instruction; no alignment is required (20_memory.md R56). -/

namespace Sys2Proof.Machine

/-- The shared effect of a load: the reads, then the register (R140). A load to x0 still reads (D17). -/
def loadInto {n : Nat} (rd : RegIdx) (ext : BitVec n → Word) (r : BitVec n × State) : Host.Outcome State Fault Refusal :=
  .next (writeReg r.2 rd (ext r.1))

/-- R141. -/
def execLb (rd rs1 : RegIdx) (imm : BitVec 12) (s : State) : Host.Outcome State Fault Refusal :=
  loadInto rd sext (memRead1 (effAddr s rs1 imm) s)

/-- R142. -/
def execLh (rd rs1 : RegIdx) (imm : BitVec 12) (s : State) : Host.Outcome State Fault Refusal :=
  loadInto rd sext (memRead2 (effAddr s rs1 imm) s)

/-- R143. 32 bits fill the register, so the extension changes nothing. -/
def execLw (rd rs1 : RegIdx) (imm : BitVec 12) (s : State) : Host.Outcome State Fault Refusal :=
  loadInto rd zext (memRead4 (effAddr s rs1 imm) s)

/-- R144. -/
def execLbu (rd rs1 : RegIdx) (imm : BitVec 12) (s : State) : Host.Outcome State Fault Refusal :=
  loadInto rd zext (memRead1 (effAddr s rs1 imm) s)

/-- R145. -/
def execLhu (rd rs1 : RegIdx) (imm : BitVec 12) (s : State) : Host.Outcome State Fault Refusal :=
  loadInto rd zext (memRead2 (effAddr s rs1 imm) s)

/-- R146. -/
def execSb (rs2 rs1 : RegIdx) (imm : BitVec 12) (s : State) : Host.Outcome State Fault Refusal :=
  .next (memWrite1 (effAddr s rs1 imm) (readReg s rs2) s)

/-- R147. -/
def execSh (rs2 rs1 : RegIdx) (imm : BitVec 12) (s : State) : Host.Outcome State Fault Refusal :=
  .next (memWrite2 (effAddr s rs1 imm) (readReg s rs2) s)

/-- R148. -/
def execSw (rs2 rs1 : RegIdx) (imm : BitVec 12) (s : State) : Host.Outcome State Fault Refusal :=
  .next (memWrite4 (effAddr s rs1 imm) (readReg s rs2) s)

end Sys2Proof.Machine
end

