-- ==== Sys2Proof/Machine/AluImm.lean ====
section
/-! DEFINITION. The register-immediate operations (44_alu_immediate.md R150 to R159). -/

namespace Sys2Proof.Machine

/-- R151. -/
def execAddi (rd rs1 : RegIdx) (imm : BitVec 12) (s : State) : Host.Outcome State Fault Refusal :=
  retire rd (readReg s rs1 + immWord imm) s

/-- R152. -/
def execSlti (rd rs1 : RegIdx) (imm : BitVec 12) (s : State) : Host.Outcome State Fault Refusal :=
  retire rd (boolWord (ltSigned (readReg s rs1) (immWord imm))) s

/-- R153: the immediate is sign-extended first, then compared unsigned. -/
def execSltiu (rd rs1 : RegIdx) (imm : BitVec 12) (s : State) : Host.Outcome State Fault Refusal :=
  retire rd (boolWord (ltUnsigned (readReg s rs1) (immWord imm))) s

/-- R154. -/
def execXori (rd rs1 : RegIdx) (imm : BitVec 12) (s : State) : Host.Outcome State Fault Refusal :=
  retire rd (readReg s rs1 ^^^ immWord imm) s

/-- R155. -/
def execOri (rd rs1 : RegIdx) (imm : BitVec 12) (s : State) : Host.Outcome State Fault Refusal :=
  retire rd (readReg s rs1 ||| immWord imm) s

/-- R156. -/
def execAndi (rd rs1 : RegIdx) (imm : BitVec 12) (s : State) : Host.Outcome State Fault Refusal :=
  retire rd (readReg s rs1 &&& immWord imm) s

/-- R157. -/
def execSlli (rd rs1 : RegIdx) (shamt : BitVec 5) (s : State) : Host.Outcome State Fault Refusal :=
  retire rd (readReg s rs1 <<< shamtImm shamt) s

/-- R158. -/
def execSrli (rd rs1 : RegIdx) (shamt : BitVec 5) (s : State) : Host.Outcome State Fault Refusal :=
  retire rd (readReg s rs1 >>> shamtImm shamt) s

/-- R159. -/
def execSrai (rd rs1 : RegIdx) (shamt : BitVec 5) (s : State) : Host.Outcome State Fault Refusal :=
  retire rd (BitVec.sshiftRight (readReg s rs1) (shamtImm shamt)) s

end Sys2Proof.Machine
end

