-- ==== Sys2Proof/Machine/AluReg.lean ====
section
/-! DEFINITION. The register-register operations (45_alu_register.md R165 to R177). Arithmetic is modulo 2^32 and
nothing records overflow or carry (R176). -/

namespace Sys2Proof.Machine

/-- R166. -/
def execAdd (rd rs1 rs2 : RegIdx) (s : State) : Host.Outcome State Fault Refusal :=
  retire rd (readReg s rs1 + readReg s rs2) s

/-- R167. -/
def execSub (rd rs1 rs2 : RegIdx) (s : State) : Host.Outcome State Fault Refusal :=
  retire rd (readReg s rs1 - readReg s rs2) s

/-- R168 with the shift amount masked to 5 bits (90_conflicts.md C3). -/
def execSll (rd rs1 rs2 : RegIdx) (s : State) : Host.Outcome State Fault Refusal :=
  retire rd (readReg s rs1 <<< shamtReg (readReg s rs2)) s

/-- R169. -/
def execSlt (rd rs1 rs2 : RegIdx) (s : State) : Host.Outcome State Fault Refusal :=
  retire rd (boolWord (ltSigned (readReg s rs1) (readReg s rs2))) s

/-- R170. -/
def execSltu (rd rs1 rs2 : RegIdx) (s : State) : Host.Outcome State Fault Refusal :=
  retire rd (boolWord (ltUnsigned (readReg s rs1) (readReg s rs2))) s

/-- R171. -/
def execXor (rd rs1 rs2 : RegIdx) (s : State) : Host.Outcome State Fault Refusal :=
  retire rd (readReg s rs1 ^^^ readReg s rs2) s

/-- R172. -/
def execSrl (rd rs1 rs2 : RegIdx) (s : State) : Host.Outcome State Fault Refusal :=
  retire rd (readReg s rs1 >>> shamtReg (readReg s rs2)) s

/-- R173. -/
def execSra (rd rs1 rs2 : RegIdx) (s : State) : Host.Outcome State Fault Refusal :=
  retire rd (BitVec.sshiftRight (readReg s rs1) (shamtReg (readReg s rs2))) s

/-- R174. -/
def execOr (rd rs1 rs2 : RegIdx) (s : State) : Host.Outcome State Fault Refusal :=
  retire rd (readReg s rs1 ||| readReg s rs2) s

/-- R175. -/
def execAnd (rd rs1 rs2 : RegIdx) (s : State) : Host.Outcome State Fault Refusal :=
  retire rd (readReg s rs1 &&& readReg s rs2) s

end Sys2Proof.Machine
end

