-- ==== Sys2Proof/Machine/System.lean ====
section
/-! DEFINITION. FENCE, ECALL and EBREAK (46_fence_system.md R190 to R193). -/

namespace Sys2Proof.Machine

/-- R190: a no-op, since execution is strictly sequential (20_memory.md R65). -/
def execFence (s : State) : Host.Outcome State Fault Refusal := .next s

/-- R191, R193: the halt flag is set, and nothing else. -/
def execEcall (s : State) : Host.Outcome State Fault Refusal := .next (halt s)

/-- R192: the same halt as ECALL's. -/
def execEbreak (s : State) : Host.Outcome State Fault Refusal := .next (halt s)

end Sys2Proof.Machine
end

