-- ==== Sys2Proof/Machine/Step.lean ====
section
/-! DEFINITION. One step (40_step.md R100 to R108), and how a word is placed where the next step fetches it. -/

namespace Sys2Proof.Machine

/-- `step()` (R108): a stopped core does nothing (R100); otherwise fetch, advance `pc`, decode, and either take the
fault the decoder raises or run the instruction. -/
def step (s : State) : Host.Outcome State Fault Refusal :=
  if stopped s then .next s
  else
    match decodeWord (fetchWord s) with
    | .error e => .next (takeFault e (afterFetch s))
    | .ok i => exec i (afterFetch s)

/-- `s` with an instruction word stored at `pc`, so that the very next step fetches and runs it: the four bytes are
placed in storage, the core is running, and no oracle region covers them (log entry 6). It stands for the host's
load of a program (70_reset_and_hazards.md R234). -/
def State.withFetchWord (s : State) (nbits w : Nat) : State :=
  placeWord (tableWord nbits w) s

end Sys2Proof.Machine
end

