-- ==== Sys2Proof/Machine/HostPort.lean ====
section
/-! DEFINITION. The block's interface to its host (10_state.md R35 to R40; 40_step.md R109, R110, R111): the status
outputs, the observation port, what a step reports, and the run of several steps. -/

namespace Sys2Proof.Machine

/-- `isHalted()` (R110): true exactly when `jammed` is set; a fault does not make it true. -/
def isHalted (s : State) : Bool := s.jammed

/-- The fault status output (R38), as its 2-bit code (R27). -/
def faultOutput (s : State) : BitVec 2 := FaultStatus.code s.fault

/-- The observation port (R39): the program counter. -/
def observePc (s : State) : Word := s.pc

/-- The observation port (R39): a register. x0 reads 0. -/
def observeReg (s : State) (r : RegIdx) : Word := readReg s r

/-- What a step from this state reports to its caller (R111): NOOP for a stopped core, the decoder's fault with what
it carries (R201, R202), HALTED where the instruction set `jammed`, else OK. (`step` answers a next state always,
so the two last lines are never reached.) -/
def stepReport (s : State) : StepReport :=
  if stopped s then .noop
  else
    match decodeWord (fetchWord s) with
    | .error (.decodeFault opcode) => .decodeFault opcode
    | .error (.executionFault opcode funct3) => .executionFault opcode funct3
    | .ok _ =>
      match step s with
      | .next t => if isHalted t then .halted else .ok
      | .fault r => nomatch r
      | .refused _ => .noop

/-- `runBatch(maxSteps)` (R109): steps until `maxSteps` are done or the core is halted or faulted. -/
def runBatch (maxSteps : Nat) (s : State) : Host.Outcome State Fault Refusal :=
  match maxSteps with
  | 0 => .next s
  | n + 1 =>
    if stopped s then .next s
    else
      match step s with
      | .next t => runBatch n t
      | .fault r => .fault r
      | .refused r => .refused r

end Sys2Proof.Machine
end

