-- ==== Sys2Proof/Machine/Assembly.lean ====
section
/-! DEFINITION. Names and expansions that belong to the assembler and not to the core (10_state.md R23; 30_encoding.md
R93, R94): the ABI register names, and the pseudo-instructions as lists of base instructions. The core decodes none of
them. -/

namespace Sys2Proof.Machine

/-- The calling-convention name of a register (R23). x8 is printed `s0`; the spec also gives `fp` and leaves the
source's choice open (N12). -/
def abiName (r : RegIdx) : String :=
  ["zero", "ra", "sp", "gp", "tp", "t0", "t1", "t2", "s0", "s1", "a0", "a1", "a2", "a3", "a4", "a5",
   "a6", "a7", "s2", "s3", "s4", "s5", "s6", "s7", "s8", "s9", "s10", "s11", "t3", "t4", "t5", "t6"].getD r.toNat ""

/-- `lo12`: the low 12 bits, which the consumer sign-extends (R94). -/
def lo12 (v : Word) : BitVec 12 := v.extractLsb' 0 12

/-- `hi20 = ((v - sext_12(lo12)) >> 12) & 0xFFFFF` (R94). -/
def hi20 (v : Word) : BitVec 20 := ((v - sext (lo12 v)) >>> 12).setWidth 20

/-- The pseudo-instructions (R94). `off` is a byte distance from the pseudo-instruction's own address; `la` takes
`sym - A`. -/
inductive Pseudo where
  | nop
  | li (rd : RegIdx) (imm : Word)
  | mv (rd rs : RegIdx)
  | not (rd rs : RegIdx)
  | neg (rd rs : RegIdx)
  | seqz (rd rs : RegIdx)
  | snez (rd rs : RegIdx)
  | sltz (rd rs : RegIdx)
  | sgtz (rd rs : RegIdx)
  | beqz (rs : RegIdx) (off : BitVec 13)
  | bnez (rs : RegIdx) (off : BitVec 13)
  | blez (rs : RegIdx) (off : BitVec 13)
  | bgez (rs : RegIdx) (off : BitVec 13)
  | bltz (rs : RegIdx) (off : BitVec 13)
  | bgtz (rs : RegIdx) (off : BitVec 13)
  | bgt (rs rt : RegIdx) (off : BitVec 13)
  | ble (rs rt : RegIdx) (off : BitVec 13)
  | bgtu (rs rt : RegIdx) (off : BitVec 13)
  | bleu (rs rt : RegIdx) (off : BitVec 13)
  | j (off : BitVec 21)
  | jal (off : BitVec 21)
  | jr (rs : RegIdx)
  | jalr (rs : RegIdx)
  | ret
  | call (off : Word)
  | tail (off : Word)
  | la (rd : RegIdx) (off : Word)
  deriving DecidableEq, Repr

/-- LI (R94): ADDI alone for -2048 to 2047; otherwise LUI, and ADDI unless `lo12` is 0. -/
def expandLi (rd : RegIdx) (imm : Word) : List Instr :=
  if sext (lo12 imm) = imm then [.addi rd 0#5 (lo12 imm)]
  else if lo12 imm = 0#12 then [.lui rd (hi20 imm)]
  else [.lui rd (hi20 imm), .addi rd rd (lo12 imm)]

/-- The expansion of each pseudo-instruction (R94). -/
def expand : Pseudo → List Instr
  | .nop => [.addi 0#5 0#5 0#12]
  | .li rd imm => expandLi rd imm
  | .mv rd rs => [.addi rd rs 0#12]
  | .not rd rs => [.xori rd rs (-1)]
  | .neg rd rs => [.sub rd 0#5 rs]
  | .seqz rd rs => [.sltiu rd rs 1#12]
  | .snez rd rs => [.sltu rd 0#5 rs]
  | .sltz rd rs => [.slt rd rs 0#5]
  | .sgtz rd rs => [.slt rd 0#5 rs]
  | .beqz rs off => [.beq rs 0#5 off]
  | .bnez rs off => [.bne rs 0#5 off]
  | .blez rs off => [.bge 0#5 rs off]
  | .bgez rs off => [.bge rs 0#5 off]
  | .bltz rs off => [.blt rs 0#5 off]
  | .bgtz rs off => [.blt 0#5 rs off]
  | .bgt rs rt off => [.blt rt rs off]
  | .ble rs rt off => [.bge rt rs off]
  | .bgtu rs rt off => [.bltu rt rs off]
  | .bleu rs rt off => [.bgeu rt rs off]
  | .j off => [.jal 0#5 off]
  | .jal off => [.jal 1#5 off]
  | .jr rs => [.jalr 0#5 rs 0#12]
  | .jalr rs => [.jalr 1#5 rs 0#12]
  | .ret => [.jalr 0#5 1#5 0#12]
  | .call off => [.auipc 1#5 (hi20 off), .jalr 1#5 1#5 (lo12 off)]
  | .tail off => [.auipc 6#5 (hi20 off), .jalr 0#5 6#5 (lo12 off)]
  | .la rd off => [.auipc rd (hi20 off), .addi rd rd (lo12 off)]

/-- The effect of instructions one after another from address `pc`, the fetches left aside: each runs with `pc`
advanced by 4 (R102). It says what an expansion does. -/
def execSeq (is : List Instr) (s : State) : Host.Outcome State Fault Refusal :=
  match is with
  | [] => .next s
  | i :: rest =>
    match exec i (s.setPc (s.pc + 4#32)) with
    | .next t => execSeq rest t
    | .fault r => .fault r
    | .refused r => .refused r

end Sys2Proof.Machine
end

