-- ==== Sys2Proof/Safety.lean ====
section
/-! DEFINITION. What counts as a safe run, and the terms the statements use: a running core, a host that is `HOST_RAM`,
the machine's invariant, and what an instruction leaves unchanged. -/

namespace Sys2Proof.Safety

open Sys2Proof.Machine

/-- The core is neither halted nor faulted (40_step.md R100). -/
def Running (s : State) : Prop := s.jammed = false ∧ s.fault = .none

/-- The host is `HOST_RAM`: every address is storage (20_memory.md R52). A named premise, not a property of the core. -/
def HostRam (s : State) : Prop := s.oracleRegions = []

/-- The host backs the address with storage (R52). -/
def Storage (s : State) (a : Word) : Prop := isOracle s a = false

/-- A good run never faults (60_exceptions.md R204): it may be running or halted. -/
def NoFault (s : State) : Prop := s.fault = .none

/-- The invariant of the machine: storage in its canonical form; the slot of x0 holds 0 (10_state.md R21); a halt and a
fault do not come together (60_exceptions.md R205, R208). -/
structure MachineInv (s : State) : Prop where
  memory : Memory.wf s.mem = true
  zero : s.regs[0] = 0#32
  oneStop : s.jammed = true → s.fault = .none

/-- Every register reads as before. -/
def RegsKept (s t : State) : Prop := ∀ r, readReg t r = readReg s r

/-- Every register but `rd` reads as before. -/
def RegsKeptExcept (rd : RegIdx) (s t : State) : Prop := ∀ r, r ≠ rd → readReg t r = readReg s r

/-- Every byte of storage reads as before. -/
def MemKept (s t : State) : Prop := ∀ a, ramByte t a = ramByte s a

/-- The halt flag and the fault status are as before. -/
def StatusKept (s t : State) : Prop := t.jammed = s.jammed ∧ t.fault = s.fault

/-- The same addresses are storage as before. -/
def HostKept (s t : State) : Prop := t.oracleRegions = s.oracleRegions

/-- No port operation was issued between `s` and `t`. -/
def NoPortOp (s t : State) : Prop := t.portLog = s.portLog

/-- `x[rd] <- v`, which x0 discards (R13, R21), and nothing else. -/
structure WritesOnly (rd : RegIdx) (v : Word) (s t : State) : Prop where
  result : readReg t rd = if rd = 0#5 then 0#32 else v
  regs : RegsKeptExcept rd s t
  pc : t.pc = s.pc
  status : StatusKept s t
  mem : MemKept s t
  host : HostKept s t
  port : NoPortOp s t

/-- `x[rd] <- link; pc <- target`, and nothing else. -/
structure LinksAndJumps (rd : RegIdx) (link target : Word) (s t : State) : Prop where
  result : readReg t rd = if rd = 0#5 then 0#32 else link
  regs : RegsKeptExcept rd s t
  pc : t.pc = target
  status : StatusKept s t
  mem : MemKept s t
  host : HostKept s t
  port : NoPortOp s t

/-- `pc <- target`, and nothing else. -/
structure SetsPcOnly (target : Word) (s t : State) : Prop where
  pc : t.pc = target
  regs : RegsKept s t
  status : StatusKept s t
  mem : MemKept s t
  host : HostKept s t
  port : NoPortOp s t

/-- `x[rd] <- v` after the port operations `ops` (newest first), and nothing else. -/
structure LoadsOnly (rd : RegIdx) (v : Word) (ops : List PortOp) (s t : State) : Prop where
  result : readReg t rd = if rd = 0#5 then 0#32 else v
  regs : RegsKeptExcept rd s t
  pc : t.pc = s.pc
  status : StatusKept s t
  mem : MemKept s t
  host : HostKept s t
  port : t.portLog = ops ++ s.portLog

/-- The byte written to `a` by a store of the low `n` bytes of `v` at `ea`, where `a` is one of them (20_memory.md R54):
the k-th address is `ea + k` modulo 2^32. -/
def storedByte (n : Nat) (ea v a : Word) : Option Byte :=
  if (a - ea).toNat < n then some (v.extractLsb' (8 * (a - ea).toNat) 8) else none

/-- The low `n` bytes of `v` go to `ea` and the addresses after it, with the port operations `ops` (newest first);
every other byte of storage, and everything else, is as before. An address that is no storage keeps nothing. -/
structure StoresOnly (n : Nat) (ea v : Word) (ops : List PortOp) (s t : State) : Prop where
  stored : ∀ a b, storedByte n ea v a = some b → Storage s a → ramByte t a = b
  notStorage : ∀ a, ¬ Storage s a → ramByte t a = ramByte s a
  mem : ∀ a, storedByte n ea v a = none → ramByte t a = ramByte s a
  regs : RegsKept s t
  pc : t.pc = s.pc
  status : StatusKept s t
  host : HostKept s t
  port : t.portLog = ops ++ s.portLog

/-- The byte a read of the port brought back: on storage, the stored byte (R52); elsewhere any byte. -/
def ReadFrom (s : State) (a : Word) (b : Byte) : Prop := Storage s a → b = ramByte s a

/-- Two states that differ at most in the history of the port. -/
structure SameButLog (s t : State) : Prop where
  regs : t.regs = s.regs
  pc : t.pc = s.pc
  jammed : t.jammed = s.jammed
  fault : t.fault = s.fault
  mem : t.mem = s.mem
  host : t.oracleRegions = s.oracleRegions

/-- The opcode and funct3 fields of a word (30_encoding.md R71, R73). -/
def KeyIs (w : Word) (opcode : BitVec 7) (funct3 : BitVec 3) : Prop :=
  w.extractLsb' 0 7 = opcode ∧ w.extractLsb' 12 3 = funct3

/-- The eleven opcodes of the shape table (30_encoding.md R72). -/
def shapeOpcodes : List (BitVec 7) :=
  [0x37#7, 0x17#7, 0x6F#7, 0x67#7, 0x63#7, 0x03#7, 0x23#7, 0x13#7, 0x33#7, 0x0F#7, 0x73#7]

/-- The keys inside the shape table that have no dispatch entry (30_encoding.md R88). -/
def UnmappedKey (w : Word) : Prop :=
  (w.extractLsb' 0 7 = 0x67#7 ∧ w.extractLsb' 12 3 ≠ 0#3) ∨
  (w.extractLsb' 0 7 = 0x63#7 ∧ w.extractLsb' 12 3 ∈ [2#3, 3#3]) ∨
  (w.extractLsb' 0 7 = 0x03#7 ∧ w.extractLsb' 12 3 ∈ [3#3, 6#3, 7#3]) ∨
  (w.extractLsb' 0 7 = 0x23#7 ∧ w.extractLsb' 12 3 ∈ [3#3, 4#3, 5#3, 6#3, 7#3])

/-- Bits `lo` and upwards, `n` of them, are the same in two words. -/
def SameBits (lo n : Nat) (w w' : Word) : Prop := w.extractLsb' lo n = w'.extractLsb' lo n

/-- The four fetch reads at `A`, newest first, with the bytes they brought back (20_memory.md R57, 40_step.md R101). -/
def fetchReads (A : Word) (b0 b1 b2 b3 : Byte) : List PortOp :=
  [.read (A + 3#32) b3, .read (A + 2#32) b2, .read (A + 1#32) b1, .read A b0]

/-- The fetch reads and nothing else happened on the port, from `s` to `t`, and the fetched word is theirs,
little-endian; on storage each byte is the stored one. -/
def FetchedOnly (s t : State) : Prop :=
  ∃ b0 b1 b2 b3, t.portLog = fetchReads s.pc b0 b1 b2 b3 ++ s.portLog ∧
    (fetchWord s).toNat = b0.toNat + 256 * b1.toNat + 65536 * b2.toNat + 16777216 * b3.toNat ∧
    ReadFrom s s.pc b0 ∧ ReadFrom s (s.pc + 1#32) b1 ∧ ReadFrom s (s.pc + 2#32) b2 ∧ ReadFrom s (s.pc + 3#32) b3

/-- A fault's whole effect (60_exceptions.md R203): the fault status is `f`, `pc` is A + 4, the four fetch reads were
issued, and nothing else changed. -/
structure FaultsOnly (f : FaultStatus) (s t : State) : Prop where
  fault : t.fault = f
  jammed : t.jammed = s.jammed
  pc : t.pc = s.pc + 4#32
  regs : RegsKept s t
  mem : MemKept s t
  host : HostKept s t
  port : FetchedOnly s t

/-- The port operations of a step as the table of 20_memory.md R57 lists them, oldest first: whether each is a read,
and its address. `w` is the word at `A`, and `x` reads the registers before the step. -/
def expectedPortOps (A w : Word) (x : RegIdx → Word) : List (Bool × Word) :=
  let fetchOps := [(true, A), (true, A + 1#32), (true, A + 2#32), (true, A + 3#32)]
  let opcode := w.extractLsb' 0 7
  let funct3 := w.extractLsb' 12 3
  let base := x (w.extractLsb' 15 5)
  let loadEA := base + (w.extractLsb' 20 12).signExtend 32
  let storeEA := base + (w.extractLsb' 25 7 ++ w.extractLsb' 7 5).signExtend 32
  let accesses (isRead : Bool) (ea : Word) (n : Nat) := (List.range n).map (fun k => (isRead, ea + BitVec.ofNat 32 k))
  fetchOps ++
    (if opcode = 0x03#7 then
      (if funct3 = 0#3 ∨ funct3 = 4#3 then accesses true loadEA 1
       else if funct3 = 1#3 ∨ funct3 = 5#3 then accesses true loadEA 2
       else if funct3 = 2#3 then accesses true loadEA 4
       else [])
     else if opcode = 0x23#7 then
      (if funct3 = 0#3 then accesses false storeEA 1
       else if funct3 = 1#3 then accesses false storeEA 2
       else if funct3 = 2#3 then accesses false storeEA 4
       else [])
     else [])

/-- The kind and address of a port operation. -/
def opKind : PortOp → Bool × Word
  | .read a _ => (true, a)
  | .write a _ => (false, a)

/-- `bool(c)` of a proposition, 1 or 0 (00_scope.md R11). -/
def bitOf (c : Prop) [Decidable c] : Nat := if c then 1 else 0

end Sys2Proof.Safety
end

