-- ==== Sys2Proof/Certificates/Slice0/Obligations.lean ====
section
/-! DEFINITION. The statements for the provers. Each docstring names the rule of spec/ it formalises, or says what it is
derived from. In a statement about `exec`, the state is the post-fetch state, whose `pc` is A + 4 (00_scope.md R16). -/

open Sys2Proof Sys2Proof.Machine Sys2Proof.Safety

/-! ## Reset and the host's side -/

/-- `initialize`, from any state and for every REG_INIT and reset address (derived from R230, which rests on the spec's
decisions D4, D5 and D14, and R232). -/
def Obligations.InitializeSetsTheCoreAndNothingElse : Prop :=
  ∀ (regInit resetAddress : Word) (s : State),
    let t := initializeCore regInit resetAddress s
    t.pc = resetAddress ∧ t.jammed = false ∧ t.fault = .none ∧ readReg t 0#5 = 0#32 ∧
    (∀ r, r ≠ 0#5 → readReg t r = regInit) ∧ MemKept s t ∧ HostKept s t ∧ NoPortOp s t

/-- The machine's invariant holds at reset, and the core is running (derived from R34; the reset values of entries 1 to
5 of the assumption log are the model's choice). -/
def Obligations.ResetMeetsTheInvariant : Prop := MachineInv State.reset ∧ Running State.reset

/-- Every step keeps the machine's invariant, from every state that meets it. -/
def Obligations.EveryStepKeepsTheInvariant : Prop :=
  ∀ s t, MachineInv s → step s = .next t → MachineInv t

/-- The host's loader (the model's form of R234's program image, log entry 6): an image of at most 2^32 bytes lands byte by byte at ascending addresses modulo 2^32, and
every other byte, and the core, is as before (derived). -/
def Obligations.LoadedImageIsReadBack : Prop :=
  ∀ (a : Word) (image : List Byte) (s : State), Memory.wf s.mem = true → image.length ≤ 2 ^ 32 →
    let t := loadImage a image s
    (∀ k, (h : k < image.length) → ramByte t (a + BitVec.ofNat 32 k) = image[k]) ∧
    (∀ x : Word, image.length ≤ (x - a).toNat → ramByte t x = ramByte s x) ∧
    t.regs = s.regs ∧ t.pc = s.pc ∧ StatusKept s t ∧ HostKept s t ∧ NoPortOp s t ∧ Memory.wf t.mem = true

/-- The model's `withFetchWord` (log entry 6): the very next step runs the placed instruction. -/
def Obligations.PlacedWordRunsNext : Prop :=
  ∀ (s : State) (nbits w : Nat) (i : Instr), Memory.wf s.mem = true → decodeTableWord nbits w = some i →
    let t := s.withFetchWord nbits w
    step t = exec i (afterFetch t) ∧ t.regs = s.regs ∧ t.pc = s.pc ∧ NoPortOp s t ∧
    (∀ x : Word, 4 ≤ (x - s.pc).toNat → ramByte t x = ramByte s x)

/-! ## The step -/

/-- R101: a running core issues the four reads at `pc`, in order, whatever the word turns out to be, and the word is
theirs, little-endian. The next state is then what the decoded instruction makes of the post-fetch state, in which `pc`
is advanced by 4 modulo 2^32 (R102, R105). -/
def Obligations.StepRunsTheDecodedInstruction : Prop :=
  ∀ s : State, Running s →
    (FetchedOnly s (afterFetch s) ∧ (afterFetch s).pc.toNat = (s.pc.toNat + 4) % 2 ^ 32 ∧ RegsKept s (afterFetch s) ∧
      MemKept s (afterFetch s) ∧ StatusKept s (afterFetch s) ∧ HostKept s (afterFetch s)) ∧
    (∀ i, decodeWord (fetchWord s) = .ok i → step s = exec i (afterFetch s)) ∧
    (∀ e, decodeWord (fetchWord s) = .error e → ∃ t, step s = .next t ∧ FetchedOnly s t)

/-- A step of a halted or faulted core changes nothing and issues no port operation (derived from R100, which rests on the
spec's decisions D5 and D12). -/
def Obligations.StoppedStepChangesNothing : Prop :=
  ∀ s : State, (s.jammed = true ∨ s.fault ≠ .none) → step s = .next s

/-- An opcode outside the shape table (derived from R201 and R203, which rest on the spec's decisions D6 and D7). -/
def Obligations.UnknownOpcodeTakesTheDecodeFault : Prop :=
  ∀ s : State, Running s → (fetchWord s).extractLsb' 0 7 ∉ shapeOpcodes →
    ∃ t, step s = .next t ∧ FaultsOnly .decode s t ∧ stepReport s = .decodeFault ((fetchWord s).extractLsb' 0 7)

/-- A known shape whose key has no dispatch entry (derived from R202, R203 and R88, which rest on the spec's decisions D6,
D7 and D16). -/
def Obligations.UnmappedKeyTakesTheExecutionFault : Prop :=
  ∀ s : State, Running s → UnmappedKey (fetchWord s) →
    ∃ t, step s = .next t ∧ FaultsOnly .exec s t ∧
      stepReport s = .executionFault ((fetchWord s).extractLsb' 0 7) ((fetchWord s).extractLsb' 12 3)

/-- Every step ends in a next state, with at most one event; a running core ends running, halted without a fault, or
faulted without a halt (derived from R200 and R208; that a fault is a next state is log entry 7). -/
def Obligations.EveryStepEndsWithAtMostOneEvent : Prop :=
  ∀ s : State, ∃ t, step s = .next t ∧
    (Running s → (t.jammed = false ∧ t.fault = .none) ∨ (t.jammed = true ∧ t.fault = .none) ∨
      (t.jammed = false ∧ t.fault = .decode) ∨ (t.jammed = false ∧ t.fault = .exec))

/-- The five outcomes, each exactly where its event is (derived from R111, whose names are the spec's decision D6). -/
def Obligations.StepReportsItsOutcome : Prop :=
  ∀ s t : State, step s = .next t →
    (stepReport s = .noop ↔ ¬ Running s) ∧
    (stepReport s = .halted ↔ Running s ∧ isHalted t = true) ∧
    ((∃ opcode, stepReport s = .decodeFault opcode) ↔ Running s ∧ faultOutput t = 0b01#2) ∧
    ((∃ opcode funct3, stepReport s = .executionFault opcode funct3) ↔ Running s ∧ faultOutput t = 0b10#2) ∧
    (stepReport s = .ok ↔ Running s ∧ Running t)

/-- Every word with the SYSTEM opcode halts the core and does nothing else, and no other word halts it (derived from R26
and R193, which the spec itself derives). -/
def Obligations.SystemWordsHaltAndNoOtherWordDoes : Prop :=
  ∀ s : State, Running s →
    ((fetchWord s).extractLsb' 0 7 = 0x73#7 → ∃ t, step s = .next t ∧ t.jammed = true ∧ t.fault = .none ∧
      t.pc = s.pc + 4#32 ∧ RegsKept s t ∧ MemKept s t ∧ HostKept s t ∧ FetchedOnly s t) ∧
    (∀ t, (fetchWord s).extractLsb' 0 7 ≠ 0x73#7 → step s = .next t → t.jammed = false)

/-- Memory changes only under the STORE opcode (derived from R57, which rests on the spec's decisions D9 and D12). That no step
changes which addresses are storage is the model's choice: R52 leaves the map to the host, and log entry 4 fixes the regions
during a run. -/
def Obligations.OnlyStoreWordsChangeMemory : Prop :=
  ∀ s t : State, step s = .next t →
    HostKept s t ∧ ((fetchWord s).extractLsb' 0 7 ≠ 0x23#7 → MemKept s t)

/-- A step writes at most the register its word names as rd, and none under the branch, store, MISC-MEM and SYSTEM
opcodes (derived from R22, R105). -/
def Obligations.StepWritesAtMostItsDestination : Prop :=
  ∀ s t : State, step s = .next t →
    RegsKeptExcept ((fetchWord s).extractLsb' 7 5) s t ∧
    ((fetchWord s).extractLsb' 0 7 ∈ [0x63#7, 0x23#7, 0x0F#7, 0x73#7] → RegsKept s t)

/-- The port operations of a step are exactly those listed, in that order; a stopped step issues none (derived from R57
and R64, which rest on the spec's decisions D9, D12 and D17). -/
def Obligations.StepIssuesExactlyTheListedPortOperations : Prop :=
  ∀ s t : State, step s = .next t →
    (Running s → t.portLog.map opKind = (expectedPortOps s.pc (fetchWord s) (readReg s)).reverse ++ s.portLog.map opKind) ∧
    (¬ Running s → t.portLog = s.portLog)

/-- From an even `pc` no step makes an odd one (derived from R124). -/
def Obligations.EvenPcStaysEven : Prop :=
  ∀ s t : State, s.pc.toNat % 2 = 0 → step s = .next t → t.pc.toNat % 2 = 0

/-- A word store over the next instruction is what the next step fetches (derived from R67, R238, for storage). -/
def Obligations.NextFetchSeesTheStore : Prop :=
  ∀ (s : State) (rs2 rs1 : RegIdx) (imm : BitVec 12), Memory.wf s.mem = true → effAddr s rs1 imm = s.pc →
    Storage s s.pc → Storage s (s.pc + 1#32) → Storage s (s.pc + 2#32) → Storage s (s.pc + 3#32) →
    ∃ t, exec (.sw rs2 rs1 imm) s = .next t ∧ fetchWord t = readReg s rs2

/-- A load after a word store at the same bytes gives the value, or its bytes and halves in little-endian order, at any
alignment (derived from R55, for storage). -/
def Obligations.LoadAfterStoreReturnsTheValue : Prop :=
  ∀ (s : State) (rs2 rs1 : RegIdx) (imm : BitVec 12) (rd rb : RegIdx) (disp : BitVec 12), Memory.wf s.mem = true →
    rd ≠ 0#5 → (∀ k < 4, Storage s (effAddr s rs1 imm + BitVec.ofNat 32 k)) →
    ∃ t, exec (.sw rs2 rs1 imm) s = .next t ∧
      (effAddr t rb disp = effAddr s rs1 imm →
        ∃ u, exec (.lw rd rb disp) t = .next u ∧ readReg u rd = readReg s rs2) ∧
      (∀ k < 4, effAddr t rb disp = effAddr s rs1 imm + BitVec.ofNat 32 k →
        ∃ u, exec (.lbu rd rb disp) t = .next u ∧ (readReg u rd).toNat = (readReg s rs2).toNat / 256 ^ k % 256) ∧
      (∀ k < 3, effAddr t rb disp = effAddr s rs1 imm + BitVec.ofNat 32 k →
        ∃ u, exec (.lhu rd rb disp) t = .next u ∧ (readReg u rd).toNat = (readReg s rs2).toNat / 256 ^ k % 65536)

/-- With `HOST_RAM` a step does not depend on the port's history, so on no free value (derived from R52, R63). -/
def Obligations.HostRamStepIgnoresTheHistory : Prop :=
  ∀ (s : State) (history : List PortOp), HostRam s →
    ∃ t u, step s = .next t ∧ step (s.setPortLog history) = .next u ∧ SameButLog t u

/-- `runBatch` is k steps, and it stops before `maxSteps` only at a halted or faulted core, and at the first one (derived
from R109, which rests on the spec's decision D18). -/
def Obligations.RunBatchStopsAtTheFirstStop : Prop :=
  ∀ (maxSteps : Nat) (s : State), ∃ k t, k ≤ maxSteps ∧ runBatch maxSteps s = .next t ∧ Host.Core.run core k s = .next t ∧
    (k < maxSteps → ¬ Running t) ∧ (∀ j < k, ∃ u, Host.Core.run core j s = .next u ∧ Running u)

/-! ## Encoding -/

/-- Decode of encode is the instruction, for every well-formed instruction with every operand at every value (derived
from R72 to R87). -/
def Obligations.DecodeInvertsEncode : Prop :=
  ∀ i : Instr, i.wf = true → decodeWord (encode i) = .ok i

/-- What the decoder answers is well-formed: every decoded branch and jump offset is even (derived from R82, R84). -/
def Obligations.DecodedInstructionIsWellFormed : Prop :=
  ∀ (w : Word) (i : Instr), decodeWord w = .ok i → i.wf = true

/-- R89: exactly the 117 opcodes outside the shape table, whatever bits 31:7 hold. -/
def Obligations.DecodeFaultExactlyOutsideTheShapeTable : Prop :=
  (∀ w : Word, (∃ opcode, decodeWord w = .error (.decodeFault opcode)) ↔ w.extractLsb' 0 7 ∉ shapeOpcodes) ∧
  (∀ (w : Word) (opcode : BitVec 7), decodeWord w = .error (.decodeFault opcode) → opcode = w.extractLsb' 0 7) ∧
  ((List.range 128).filter (fun n => BitVec.ofNat 7 n ∉ shapeOpcodes)).length = 117

/-- Exactly the keys missing from the dispatch table (derived from R88, which rests on the spec's decision D16). -/
def Obligations.ExecutionFaultExactlyOnTheUnmappedKeys : Prop :=
  (∀ w : Word, (∃ opcode funct3, decodeWord w = .error (.executionFault opcode funct3)) ↔ UnmappedKey w) ∧
  (∀ (w : Word) (opcode : BitVec 7) (funct3 : BitVec 3), decodeWord w = .error (.executionFault opcode funct3) →
    opcode = w.extractLsb' 0 7 ∧ funct3 = w.extractLsb' 12 3)

/-- A decoded word lies in its instruction's row of the opcode table: it agrees with the row's match on the bits of the
row's mask (derived from R87). -/
def Obligations.DecodedWordLiesInItsTableRow : Prop :=
  ∀ (w : Word) (i : Instr), decodeWord w = .ok i → w &&& i.rowMask = i.rowMatch

/-- The bits the core does not examine never change the instruction: w[31] and w[29:25] of an OP, SRLI or SRAI word,
w[31:25] of an SLLI word, and everything but the opcode of a MISC-MEM or SYSTEM word. None of these words faults
(derived from R90, which the spec itself derives). -/
def Obligations.UnexaminedBitsNeverMatter : Prop :=
  (∀ w w' : Word, w.extractLsb' 0 7 = 0x33#7 → SameBits 0 25 w w' → SameBits 30 1 w w' →
    ∃ i, decodeWord w = .ok i ∧ decodeWord w' = .ok i) ∧
  (∀ w w' : Word, KeyIs w 0x13#7 1#3 → SameBits 0 25 w w' → ∃ i, decodeWord w = .ok i ∧ decodeWord w' = .ok i) ∧
  (∀ w w' : Word, KeyIs w 0x13#7 5#3 → SameBits 0 25 w w' → SameBits 30 1 w w' →
    ∃ i, decodeWord w = .ok i ∧ decodeWord w' = .ok i) ∧
  (∀ w : Word, w.extractLsb' 0 7 = 0x0F#7 → decodeWord w = .ok .fence) ∧
  (∀ w : Word, w.extractLsb' 0 7 = 0x73#7 → ∃ i, decodeWord w = .ok i ∧ ∀ s, exec i s = exec .ecall s)

/-- The M extension's words run as the base operation their funct3 selects, with w[30] 0 (derived from R177, which the
spec itself derives). -/
def Obligations.MultiplyDivideWordsRunAsBaseOperations : Prop :=
  ∀ w : Word, w.extractLsb' 0 7 = 0x33#7 → w.extractLsb' 25 7 = 0b0000001#7 →
    let rd := w.extractLsb' 7 5
    let rs1 := w.extractLsb' 15 5
    let rs2 := w.extractLsb' 20 5
    (w.extractLsb' 12 3 = 0#3 → decodeWord w = .ok (.add rd rs1 rs2)) ∧
    (w.extractLsb' 12 3 = 1#3 → decodeWord w = .ok (.sll rd rs1 rs2)) ∧
    (w.extractLsb' 12 3 = 2#3 → decodeWord w = .ok (.slt rd rs1 rs2)) ∧
    (w.extractLsb' 12 3 = 3#3 → decodeWord w = .ok (.sltu rd rs1 rs2)) ∧
    (w.extractLsb' 12 3 = 4#3 → decodeWord w = .ok (.xor rd rs1 rs2)) ∧
    (w.extractLsb' 12 3 = 5#3 → decodeWord w = .ok (.srl rd rs1 rs2)) ∧
    (w.extractLsb' 12 3 = 6#3 → decodeWord w = .ok (.or rd rs1 rs2)) ∧
    (w.extractLsb' 12 3 = 7#3 → decodeWord w = .ok (.and rd rs1 rs2))

/-- Words written out from the spec decode to the instructions they stand for (derived from 95_test_vectors.md). -/
def Obligations.WrittenOutWordsDecode : Prop :=
  decodeWord 0x123452B7#32 = .ok (.lui 5#5 0x12345#20) ∧ decodeWord 0x003100E7#32 = .ok (.jalr 1#5 2#5 3#12) ∧
  decodeWord 0xFE208EE3#32 = .ok (.beq 1#5 2#5 (-4)) ∧ decodeWord 0xFFDFF06F#32 = .ok (.jal 0#5 (-4)) ∧
  decodeWord 0xFFC32283#32 = .ok (.lw 5#5 6#5 (-4)) ∧ decodeWord 0xFE732FA3#32 = .ok (.sw 7#5 6#5 (-1)) ∧
  decodeWord 0x40415093#32 = .ok (.srai 1#5 2#5 4#5) ∧ decodeWord 0x007302B3#32 = .ok (.add 5#5 6#5 7#5) ∧
  decodeWord 0x006282B3#32 = .ok (.add 5#5 5#5 6#5) ∧ decodeWord 0x00100073#32 = .ok .ebreak

/-! ## Upper immediates and jumps -/

/-- R120. -/
def Obligations.LuiLoadsTheUpperImmediate : Prop :=
  (∀ w : Word, w.extractLsb' 0 7 = 0x37#7 → decodeWord w = .ok (.lui (w.extractLsb' 7 5) (w.extractLsb' 12 20))) ∧
  (∀ (rd : RegIdx) (imm : BitVec 20) (s : State), ∃ t v, exec (.lui rd imm) s = .next t ∧ WritesOnly rd v s t ∧
    v.toNat = imm.toNat * 4096)

/-- R121. -/
def Obligations.AuipcAddsTheUpperImmediateToItsAddress : Prop :=
  (∀ w : Word, w.extractLsb' 0 7 = 0x17#7 → decodeWord w = .ok (.auipc (w.extractLsb' 7 5) (w.extractLsb' 12 20))) ∧
  (∀ (rd : RegIdx) (imm : BitVec 20) (s : State) (A : Word), s.pc = A + 4#32 →
    ∃ t v, exec (.auipc rd imm) s = .next t ∧ WritesOnly rd v s t ∧ v.toNat = (A.toNat + imm.toNat * 4096) % 2 ^ 32)

/-- R122. -/
def Obligations.JalLinksAndJumps : Prop :=
  (∀ w : Word, w.extractLsb' 0 7 = 0x6F#7 → decodeWord w = .ok (.jal (w.extractLsb' 7 5)
    (w.extractLsb' 31 1 ++ w.extractLsb' 12 8 ++ w.extractLsb' 20 1 ++ w.extractLsb' 21 10 ++ 0#1))) ∧
  (∀ (rd : RegIdx) (off : BitVec 21) (s : State) (A : Word), s.pc = A + 4#32 →
    ∃ t target, exec (.jal rd off) s = .next t ∧ LinksAndJumps rd (A + 4#32) target s t ∧
      (target.toNat : Int) = ((A.toNat : Int) + off.toInt) % 2 ^ 32)

/-- The source is read before the link is written; only bit 0 of the sum is cleared; another funct3 is an ExecutionFault
(derived from R123, which rests on the spec's decisions D8 and D16). -/
def Obligations.JalrLinksAndJumpsToTheEvenSum : Prop :=
  (∀ w : Word, KeyIs w 0x67#7 0#3 →
    decodeWord w = .ok (.jalr (w.extractLsb' 7 5) (w.extractLsb' 15 5) (w.extractLsb' 20 12))) ∧
  (∀ (w : Word) (funct3 : BitVec 3), KeyIs w 0x67#7 funct3 → funct3 ≠ 0#3 →
    decodeWord w = .error (.executionFault 0x67#7 funct3)) ∧
  (∀ (rd rs1 : RegIdx) (imm : BitVec 12) (s : State) (A : Word), s.pc = A + 4#32 →
    ∃ t target, exec (.jalr rd rs1 imm) s = .next t ∧ LinksAndJumps rd (A + 4#32) target s t ∧
      (target.toNat : Int) = 2 * (((((readReg s rs1).toNat : Int) + imm.toInt) % 2 ^ 32) / 2))

/-! ## Branches -/

/-- R131, R132. -/
def Obligations.EqualityBranches : Prop :=
  (∀ w : Word, let off := w.extractLsb' 31 1 ++ w.extractLsb' 7 1 ++ w.extractLsb' 25 6 ++ w.extractLsb' 8 4 ++ 0#1
    (KeyIs w 0x63#7 0#3 → decodeWord w = .ok (.beq (w.extractLsb' 15 5) (w.extractLsb' 20 5) off)) ∧
    (KeyIs w 0x63#7 1#3 → decodeWord w = .ok (.bne (w.extractLsb' 15 5) (w.extractLsb' 20 5) off))) ∧
  (∀ (rs1 rs2 : RegIdx) (off : BitVec 13) (s : State) (A : Word), s.pc = A + 4#32 →
    ∃ t u taken, (taken.toNat : Int) = ((A.toNat : Int) + off.toInt) % 2 ^ 32 ∧
      exec (.beq rs1 rs2 off) s = .next t ∧
      SetsPcOnly (if (readReg s rs1).toNat = (readReg s rs2).toNat then taken else A + 4#32) s t ∧
      exec (.bne rs1 rs2 off) s = .next u ∧
      SetsPcOnly (if (readReg s rs1).toNat = (readReg s rs2).toNat then A + 4#32 else taken) s u)

/-- R133, R134: the two's-complement readings are compared. -/
def Obligations.SignedBranches : Prop :=
  (∀ w : Word, let off := w.extractLsb' 31 1 ++ w.extractLsb' 7 1 ++ w.extractLsb' 25 6 ++ w.extractLsb' 8 4 ++ 0#1
    (KeyIs w 0x63#7 4#3 → decodeWord w = .ok (.blt (w.extractLsb' 15 5) (w.extractLsb' 20 5) off)) ∧
    (KeyIs w 0x63#7 5#3 → decodeWord w = .ok (.bge (w.extractLsb' 15 5) (w.extractLsb' 20 5) off))) ∧
  (∀ (rs1 rs2 : RegIdx) (off : BitVec 13) (s : State) (A : Word), s.pc = A + 4#32 →
    ∃ t u taken, (taken.toNat : Int) = ((A.toNat : Int) + off.toInt) % 2 ^ 32 ∧
      exec (.blt rs1 rs2 off) s = .next t ∧
      SetsPcOnly (if (readReg s rs1).toInt < (readReg s rs2).toInt then taken else A + 4#32) s t ∧
      exec (.bge rs1 rs2 off) s = .next u ∧
      SetsPcOnly (if (readReg s rs1).toInt < (readReg s rs2).toInt then A + 4#32 else taken) s u)

/-- R135, R136: the unsigned readings are compared. -/
def Obligations.UnsignedBranches : Prop :=
  (∀ w : Word, let off := w.extractLsb' 31 1 ++ w.extractLsb' 7 1 ++ w.extractLsb' 25 6 ++ w.extractLsb' 8 4 ++ 0#1
    (KeyIs w 0x63#7 6#3 → decodeWord w = .ok (.bltu (w.extractLsb' 15 5) (w.extractLsb' 20 5) off)) ∧
    (KeyIs w 0x63#7 7#3 → decodeWord w = .ok (.bgeu (w.extractLsb' 15 5) (w.extractLsb' 20 5) off))) ∧
  (∀ (rs1 rs2 : RegIdx) (off : BitVec 13) (s : State) (A : Word), s.pc = A + 4#32 →
    ∃ t u taken, (taken.toNat : Int) = ((A.toNat : Int) + off.toInt) % 2 ^ 32 ∧
      exec (.bltu rs1 rs2 off) s = .next t ∧
      SetsPcOnly (if (readReg s rs1).toNat < (readReg s rs2).toNat then taken else A + 4#32) s t ∧
      exec (.bgeu rs1 rs2 off) s = .next u ∧
      SetsPcOnly (if (readReg s rs1).toNat < (readReg s rs2).toNat then A + 4#32 else taken) s u)

/-! ## Loads and stores -/

/-- Byte and halfword loads, sign-extended, at any address and for every host (derived from R141 and R142; that a load to
x0 still reads, and the ascending order of LH's two reads, are the spec's decisions D17 and D9). -/
def Obligations.SignedLoads : Prop :=
  (∀ w : Word,
    (KeyIs w 0x03#7 0#3 → decodeWord w = .ok (.lb (w.extractLsb' 7 5) (w.extractLsb' 15 5) (w.extractLsb' 20 12))) ∧
    (KeyIs w 0x03#7 1#3 → decodeWord w = .ok (.lh (w.extractLsb' 7 5) (w.extractLsb' 15 5) (w.extractLsb' 20 12)))) ∧
  (∀ (rd rs1 : RegIdx) (imm : BitVec 12) (s : State), ∃ ea : Word,
    (ea.toNat : Int) = (((readReg s rs1).toNat : Int) + imm.toInt) % 2 ^ 32 ∧
    (∃ t v b0, exec (.lb rd rs1 imm) s = .next t ∧ LoadsOnly rd v [.read ea b0] s t ∧ ReadFrom s ea b0 ∧
      v.toInt = b0.toInt) ∧
    (∃ t v b0 b1, exec (.lh rd rs1 imm) s = .next t ∧ LoadsOnly rd v [.read (ea + 1#32) b1, .read ea b0] s t ∧
      ReadFrom s ea b0 ∧ ReadFrom s (ea + 1#32) b1 ∧ v.toInt = b0.toNat + 256 * b1.toInt))

/-- The word load and the zero-extended loads, at any address and for every host (derived from R143, R144 and R145; that a
load to x0 still reads, and the ascending order of the reads of LW and LHU, are the spec's decisions D17 and D9). -/
def Obligations.WordAndUnsignedLoads : Prop :=
  (∀ w : Word,
    (KeyIs w 0x03#7 2#3 → decodeWord w = .ok (.lw (w.extractLsb' 7 5) (w.extractLsb' 15 5) (w.extractLsb' 20 12))) ∧
    (KeyIs w 0x03#7 4#3 → decodeWord w = .ok (.lbu (w.extractLsb' 7 5) (w.extractLsb' 15 5) (w.extractLsb' 20 12))) ∧
    (KeyIs w 0x03#7 5#3 → decodeWord w = .ok (.lhu (w.extractLsb' 7 5) (w.extractLsb' 15 5) (w.extractLsb' 20 12)))) ∧
  (∀ (rd rs1 : RegIdx) (imm : BitVec 12) (s : State), ∃ ea : Word,
    (ea.toNat : Int) = (((readReg s rs1).toNat : Int) + imm.toInt) % 2 ^ 32 ∧
    (∃ t v b0 b1 b2 b3, exec (.lw rd rs1 imm) s = .next t ∧ LoadsOnly rd v (fetchReads ea b0 b1 b2 b3) s t ∧
      ReadFrom s ea b0 ∧ ReadFrom s (ea + 1#32) b1 ∧ ReadFrom s (ea + 2#32) b2 ∧ ReadFrom s (ea + 3#32) b3 ∧
      v.toNat = b0.toNat + 256 * b1.toNat + 65536 * b2.toNat + 16777216 * b3.toNat) ∧
    (∃ t v b0, exec (.lbu rd rs1 imm) s = .next t ∧ LoadsOnly rd v [.read ea b0] s t ∧ ReadFrom s ea b0 ∧
      v.toNat = b0.toNat) ∧
    (∃ t v b0 b1, exec (.lhu rd rs1 imm) s = .next t ∧ LoadsOnly rd v [.read (ea + 1#32) b1, .read ea b0] s t ∧
      ReadFrom s ea b0 ∧ ReadFrom s (ea + 1#32) b1 ∧ v.toNat = b0.toNat + 256 * b1.toNat))

/-- R146, R147, R148: the low 1, 2 or 4 bytes of rs2 go to the effective address and the ones after it, in ascending
order; every other byte of storage is as before. The effective address is the meaning's own `effAddr`. -/
def Obligations.StoresWriteTheLowBytes : Prop :=
  (∀ w : Word, let imm := w.extractLsb' 25 7 ++ w.extractLsb' 7 5
    (KeyIs w 0x23#7 0#3 → decodeWord w = .ok (.sb (w.extractLsb' 20 5) (w.extractLsb' 15 5) imm)) ∧
    (KeyIs w 0x23#7 1#3 → decodeWord w = .ok (.sh (w.extractLsb' 20 5) (w.extractLsb' 15 5) imm)) ∧
    (KeyIs w 0x23#7 2#3 → decodeWord w = .ok (.sw (w.extractLsb' 20 5) (w.extractLsb' 15 5) imm))) ∧
  (∀ (rs2 rs1 : RegIdx) (imm : BitVec 12) (s : State), Memory.wf s.mem = true →
    let ea := effAddr s rs1 imm
    let v := readReg s rs2
    let byte := fun k => v.extractLsb' (8 * k) 8
    (ea.toNat : Int) = (((readReg s rs1).toNat : Int) + imm.toInt) % 2 ^ 32 ∧
    (∃ t, exec (.sb rs2 rs1 imm) s = .next t ∧ StoresOnly 1 ea v [.write ea (byte 0)] s t) ∧
    (∃ t, exec (.sh rs2 rs1 imm) s = .next t ∧
      StoresOnly 2 ea v [.write (ea + 1#32) (byte 1), .write ea (byte 0)] s t) ∧
    (∃ t, exec (.sw rs2 rs1 imm) s = .next t ∧
      StoresOnly 4 ea v [.write (ea + 3#32) (byte 3), .write (ea + 2#32) (byte 2), .write (ea + 1#32) (byte 1),
        .write ea (byte 0)] s t))

/-! ## Register-immediate operations -/

/-- R151: the sum wraps, with no indication. -/
def Obligations.AddiAddsTheSignExtendedImmediate : Prop :=
  (∀ w : Word, KeyIs w 0x13#7 0#3 →
    decodeWord w = .ok (.addi (w.extractLsb' 7 5) (w.extractLsb' 15 5) (w.extractLsb' 20 12))) ∧
  (∀ (rd rs1 : RegIdx) (imm : BitVec 12) (s : State), ∃ t v, exec (.addi rd rs1 imm) s = .next t ∧ WritesOnly rd v s t ∧
    (v.toNat : Int) = (((readReg s rs1).toNat : Int) + imm.toInt) % 2 ^ 32)

/-- R152, R153: the immediate is sign-extended, then compared signed (SLTI) or unsigned (SLTIU). -/
def Obligations.SetLessThanImmediate : Prop :=
  (∀ w : Word,
    (KeyIs w 0x13#7 2#3 → decodeWord w = .ok (.slti (w.extractLsb' 7 5) (w.extractLsb' 15 5) (w.extractLsb' 20 12))) ∧
    (KeyIs w 0x13#7 3#3 → decodeWord w = .ok (.sltiu (w.extractLsb' 7 5) (w.extractLsb' 15 5) (w.extractLsb' 20 12)))) ∧
  (∀ (rd rs1 : RegIdx) (imm : BitVec 12) (s : State),
    (∃ t v, exec (.slti rd rs1 imm) s = .next t ∧ WritesOnly rd v s t ∧
      v.toNat = bitOf ((readReg s rs1).toInt < imm.toInt)) ∧
    (∃ t v, exec (.sltiu rd rs1 imm) s = .next t ∧ WritesOnly rd v s t ∧
      v.toNat = bitOf (((readReg s rs1).toNat : Int) < imm.toInt % 2 ^ 32)))

/-- R154, R155, R156: bit by bit, the immediate's bit 11 standing for every higher bit. -/
def Obligations.LogicImmediate : Prop :=
  (∀ w : Word,
    (KeyIs w 0x13#7 4#3 → decodeWord w = .ok (.xori (w.extractLsb' 7 5) (w.extractLsb' 15 5) (w.extractLsb' 20 12))) ∧
    (KeyIs w 0x13#7 6#3 → decodeWord w = .ok (.ori (w.extractLsb' 7 5) (w.extractLsb' 15 5) (w.extractLsb' 20 12))) ∧
    (KeyIs w 0x13#7 7#3 → decodeWord w = .ok (.andi (w.extractLsb' 7 5) (w.extractLsb' 15 5) (w.extractLsb' 20 12)))) ∧
  (∀ (rd rs1 : RegIdx) (imm : BitVec 12) (s : State),
    let x := fun k => (readReg s rs1).getLsbD k
    let y := fun k => imm.getLsbD (min k 11)
    (∃ t v, exec (.xori rd rs1 imm) s = .next t ∧ WritesOnly rd v s t ∧ ∀ k < 32, v.getLsbD k = (x k != y k)) ∧
    (∃ t v, exec (.ori rd rs1 imm) s = .next t ∧ WritesOnly rd v s t ∧ ∀ k < 32, v.getLsbD k = (x k || y k)) ∧
    (∃ t v, exec (.andi rd rs1 imm) s = .next t ∧ WritesOnly rd v s t ∧ ∀ k < 32, v.getLsbD k = (x k && y k)))

/-- R157, R158, R159: shifts by w[24:20]; w[30] alone tells SRLI from SRAI. -/
def Obligations.ShiftImmediate : Prop :=
  (∀ w : Word,
    (KeyIs w 0x13#7 1#3 → decodeWord w = .ok (.slli (w.extractLsb' 7 5) (w.extractLsb' 15 5) (w.extractLsb' 20 5))) ∧
    (KeyIs w 0x13#7 5#3 → w.getLsbD 30 = false →
      decodeWord w = .ok (.srli (w.extractLsb' 7 5) (w.extractLsb' 15 5) (w.extractLsb' 20 5))) ∧
    (KeyIs w 0x13#7 5#3 → w.getLsbD 30 = true →
      decodeWord w = .ok (.srai (w.extractLsb' 7 5) (w.extractLsb' 15 5) (w.extractLsb' 20 5)))) ∧
  (∀ (rd rs1 : RegIdx) (shamt : BitVec 5) (s : State),
    (∃ t v, exec (.slli rd rs1 shamt) s = .next t ∧ WritesOnly rd v s t ∧
      v.toNat = (readReg s rs1).toNat * 2 ^ shamt.toNat % 2 ^ 32) ∧
    (∃ t v, exec (.srli rd rs1 shamt) s = .next t ∧ WritesOnly rd v s t ∧
      v.toNat = (readReg s rs1).toNat / 2 ^ shamt.toNat) ∧
    (∃ t v, exec (.srai rd rs1 shamt) s = .next t ∧ WritesOnly rd v s t ∧
      v.toInt = (readReg s rs1).toInt / 2 ^ shamt.toNat))

/-! ## Register-register operations -/

/-- R166, R167: addition and subtraction modulo 2^32, told apart by w[30]. -/
def Obligations.AddAndSubtractWrap : Prop :=
  (∀ w : Word, KeyIs w 0x33#7 0#3 →
    (w.getLsbD 30 = false → decodeWord w = .ok (.add (w.extractLsb' 7 5) (w.extractLsb' 15 5) (w.extractLsb' 20 5))) ∧
    (w.getLsbD 30 = true → decodeWord w = .ok (.sub (w.extractLsb' 7 5) (w.extractLsb' 15 5) (w.extractLsb' 20 5)))) ∧
  (∀ (rd rs1 rs2 : RegIdx) (s : State),
    (∃ t v, exec (.add rd rs1 rs2) s = .next t ∧ WritesOnly rd v s t ∧
      v.toNat = ((readReg s rs1).toNat + (readReg s rs2).toNat) % 2 ^ 32) ∧
    (∃ t v, exec (.sub rd rs1 rs2) s = .next t ∧ WritesOnly rd v s t ∧
      (v.toNat : Int) = (((readReg s rs1).toNat : Int) - (readReg s rs2).toNat) % 2 ^ 32))

/-- R169, R170. -/
def Obligations.SetLessThanRegister : Prop :=
  (∀ w : Word,
    (KeyIs w 0x33#7 2#3 → decodeWord w = .ok (.slt (w.extractLsb' 7 5) (w.extractLsb' 15 5) (w.extractLsb' 20 5))) ∧
    (KeyIs w 0x33#7 3#3 → decodeWord w = .ok (.sltu (w.extractLsb' 7 5) (w.extractLsb' 15 5) (w.extractLsb' 20 5)))) ∧
  (∀ (rd rs1 rs2 : RegIdx) (s : State),
    (∃ t v, exec (.slt rd rs1 rs2) s = .next t ∧ WritesOnly rd v s t ∧
      v.toNat = bitOf ((readReg s rs1).toInt < (readReg s rs2).toInt)) ∧
    (∃ t v, exec (.sltu rd rs1 rs2) s = .next t ∧ WritesOnly rd v s t ∧
      v.toNat = bitOf ((readReg s rs1).toNat < (readReg s rs2).toNat)))

/-- R171, R174, R175. -/
def Obligations.LogicRegister : Prop :=
  (∀ w : Word,
    (KeyIs w 0x33#7 4#3 → decodeWord w = .ok (.xor (w.extractLsb' 7 5) (w.extractLsb' 15 5) (w.extractLsb' 20 5))) ∧
    (KeyIs w 0x33#7 6#3 → decodeWord w = .ok (.or (w.extractLsb' 7 5) (w.extractLsb' 15 5) (w.extractLsb' 20 5))) ∧
    (KeyIs w 0x33#7 7#3 → decodeWord w = .ok (.and (w.extractLsb' 7 5) (w.extractLsb' 15 5) (w.extractLsb' 20 5)))) ∧
  (∀ (rd rs1 rs2 : RegIdx) (s : State),
    let x := fun k => (readReg s rs1).getLsbD k
    let y := fun k => (readReg s rs2).getLsbD k
    (∃ t v, exec (.xor rd rs1 rs2) s = .next t ∧ WritesOnly rd v s t ∧ ∀ k < 32, v.getLsbD k = (x k != y k)) ∧
    (∃ t v, exec (.or rd rs1 rs2) s = .next t ∧ WritesOnly rd v s t ∧ ∀ k < 32, v.getLsbD k = (x k || y k)) ∧
    (∃ t v, exec (.and rd rs1 rs2) s = .next t ∧ WritesOnly rd v s t ∧ ∀ k < 32, v.getLsbD k = (x k && y k)))

/-- R168, R172, R173: shifts by the low 5 bits of rs2; w[30] alone tells SRL from SRA. -/
def Obligations.ShiftRegister : Prop :=
  (∀ w : Word,
    (KeyIs w 0x33#7 1#3 → decodeWord w = .ok (.sll (w.extractLsb' 7 5) (w.extractLsb' 15 5) (w.extractLsb' 20 5))) ∧
    (KeyIs w 0x33#7 5#3 → w.getLsbD 30 = false →
      decodeWord w = .ok (.srl (w.extractLsb' 7 5) (w.extractLsb' 15 5) (w.extractLsb' 20 5))) ∧
    (KeyIs w 0x33#7 5#3 → w.getLsbD 30 = true →
      decodeWord w = .ok (.sra (w.extractLsb' 7 5) (w.extractLsb' 15 5) (w.extractLsb' 20 5)))) ∧
  (∀ (rd rs1 rs2 : RegIdx) (s : State),
    let n := (readReg s rs2).toNat % 32
    (∃ t v, exec (.sll rd rs1 rs2) s = .next t ∧ WritesOnly rd v s t ∧ v.toNat = (readReg s rs1).toNat * 2 ^ n % 2 ^ 32) ∧
    (∃ t v, exec (.srl rd rs1 rs2) s = .next t ∧ WritesOnly rd v s t ∧ v.toNat = (readReg s rs1).toNat / 2 ^ n) ∧
    (∃ t v, exec (.sra rd rs1 rs2) s = .next t ∧ WritesOnly rd v s t ∧ v.toInt = (readReg s rs1).toInt / 2 ^ n))

/-! ## FENCE and the system-call class -/

/-- Every MISC-MEM word is a no-op (derived from R190, whose sentence about every such word the spec itself derives from R79,
as it does R90's; log entry 11). -/
def Obligations.FenceDoesNothing : Prop :=
  (∀ w : Word, w.extractLsb' 0 7 = 0x0F#7 → decodeWord w = .ok .fence) ∧
  (∀ s : State, ∃ t, exec .fence s = .next t ∧ SetsPcOnly s.pc s t)

/-- R191, R192: both set the halt flag and change nothing else; bits 31:7 of the word do not matter. (Which of the two names
a word decodes to is the model's choice, log entry 8.) -/
def Obligations.EcallAndEbreakHalt : Prop :=
  (∀ w : Word, w.extractLsb' 0 7 = 0x73#7 → decodeWord w = .ok .ecall ∨ decodeWord w = .ok .ebreak) ∧
  (∀ s : State, ∃ t, exec .ecall s = .next t ∧ exec .ebreak s = .next t ∧ t.jammed = true ∧ t.fault = s.fault ∧
    t.pc = s.pc ∧ RegsKept s t ∧ MemKept s t ∧ HostKept s t ∧ NoPortOp s t)

/-! ## Expansions -/

/-- LI's expansion loads every 32-bit constant into every register but x0, which stays 0 (derived from R94). -/
def Obligations.LiExpansionLoadsTheConstant : Prop :=
  ∀ (rd : RegIdx) (imm : Word) (s : State), ∃ t, execSeq (expand (.li rd imm)) s = .next t ∧
    readReg t rd = (if rd = 0#5 then 0#32 else imm) ∧ RegsKeptExcept rd s t ∧ MemKept s t ∧ NoPortOp s t ∧
    t.pc = s.pc + BitVec.ofNat 32 (4 * (expand (.li rd imm)).length)

/-- LA's expansion gives the address at distance `off`; CALL's and TAIL's go there, with bit 0 cleared, and CALL links
past itself (derived from R94). -/
def Obligations.PcRelativeExpansionsReachTheirTarget : Prop :=
  ∀ (rd : RegIdx) (off : Word) (s : State),
    (∃ t, execSeq (expand (.la rd off)) s = .next t ∧ readReg t rd = (if rd = 0#5 then 0#32 else s.pc + off) ∧
      RegsKeptExcept rd s t ∧ t.pc = s.pc + 8#32) ∧
    (∃ t, execSeq (expand (.call off)) s = .next t ∧ t.pc = (s.pc + off) &&& 0xFFFFFFFE#32 ∧
      readReg t 1#5 = s.pc + 8#32 ∧ RegsKeptExcept 1#5 s t) ∧
    (∃ t, execSeq (expand (.tail off)) s = .next t ∧ t.pc = (s.pc + off) &&& 0xFFFFFFFE#32 ∧ RegsKeptExcept 6#5 s t)
end

