-- ==== Sys2Proof/Laws/Decode.lean ====
section
/-! SUPPORT. What the decoder can answer, said once: from `decodeWord w = .ok i`, the key and the fields of `w`
(30_encoding.md R86, R87). -/

namespace Sys2Proof

/-- The key and the operand fields that select an instruction. -/
def DecodedFrom (w : Word) : Instr → Prop
  | .lui rd imm => opcodeOf w = 0b0110111#7 ∧ rd = rdOf w ∧ imm = immUOf w
  | .auipc rd imm => opcodeOf w = 0b0010111#7 ∧ rd = rdOf w ∧ imm = immUOf w
  | .jal rd off => opcodeOf w = 0b1101111#7 ∧ rd = rdOf w ∧ off = immJOf w
  | .jalr rd rs1 imm => opcodeOf w = 0b1100111#7 ∧ funct3Of w = 0b000#3 ∧ rd = rdOf w ∧ rs1 = rs1Of w ∧ imm = immIOf w
  | .beq rs1 rs2 off => opcodeOf w = 0b1100011#7 ∧ funct3Of w = 0b000#3 ∧ rs1 = rs1Of w ∧ rs2 = rs2Of w ∧ off = immBOf w
  | .bne rs1 rs2 off => opcodeOf w = 0b1100011#7 ∧ funct3Of w = 0b001#3 ∧ rs1 = rs1Of w ∧ rs2 = rs2Of w ∧ off = immBOf w
  | .blt rs1 rs2 off => opcodeOf w = 0b1100011#7 ∧ funct3Of w = 0b100#3 ∧ rs1 = rs1Of w ∧ rs2 = rs2Of w ∧ off = immBOf w
  | .bge rs1 rs2 off => opcodeOf w = 0b1100011#7 ∧ funct3Of w = 0b101#3 ∧ rs1 = rs1Of w ∧ rs2 = rs2Of w ∧ off = immBOf w
  | .bltu rs1 rs2 off => opcodeOf w = 0b1100011#7 ∧ funct3Of w = 0b110#3 ∧ rs1 = rs1Of w ∧ rs2 = rs2Of w ∧ off = immBOf w
  | .bgeu rs1 rs2 off => opcodeOf w = 0b1100011#7 ∧ funct3Of w = 0b111#3 ∧ rs1 = rs1Of w ∧ rs2 = rs2Of w ∧ off = immBOf w
  | .lb rd rs1 imm => opcodeOf w = 0b0000011#7 ∧ funct3Of w = 0b000#3 ∧ rd = rdOf w ∧ rs1 = rs1Of w ∧ imm = immIOf w
  | .lh rd rs1 imm => opcodeOf w = 0b0000011#7 ∧ funct3Of w = 0b001#3 ∧ rd = rdOf w ∧ rs1 = rs1Of w ∧ imm = immIOf w
  | .lw rd rs1 imm => opcodeOf w = 0b0000011#7 ∧ funct3Of w = 0b010#3 ∧ rd = rdOf w ∧ rs1 = rs1Of w ∧ imm = immIOf w
  | .lbu rd rs1 imm => opcodeOf w = 0b0000011#7 ∧ funct3Of w = 0b100#3 ∧ rd = rdOf w ∧ rs1 = rs1Of w ∧ imm = immIOf w
  | .lhu rd rs1 imm => opcodeOf w = 0b0000011#7 ∧ funct3Of w = 0b101#3 ∧ rd = rdOf w ∧ rs1 = rs1Of w ∧ imm = immIOf w
  | .sb rs2 rs1 imm => opcodeOf w = 0b0100011#7 ∧ funct3Of w = 0b000#3 ∧ rs2 = rs2Of w ∧ rs1 = rs1Of w ∧ imm = immSOf w
  | .sh rs2 rs1 imm => opcodeOf w = 0b0100011#7 ∧ funct3Of w = 0b001#3 ∧ rs2 = rs2Of w ∧ rs1 = rs1Of w ∧ imm = immSOf w
  | .sw rs2 rs1 imm => opcodeOf w = 0b0100011#7 ∧ funct3Of w = 0b010#3 ∧ rs2 = rs2Of w ∧ rs1 = rs1Of w ∧ imm = immSOf w
  | .addi rd rs1 imm => opcodeOf w = 0b0010011#7 ∧ funct3Of w = 0b000#3 ∧ rd = rdOf w ∧ rs1 = rs1Of w ∧ imm = immIOf w
  | .slti rd rs1 imm => opcodeOf w = 0b0010011#7 ∧ funct3Of w = 0b010#3 ∧ rd = rdOf w ∧ rs1 = rs1Of w ∧ imm = immIOf w
  | .sltiu rd rs1 imm => opcodeOf w = 0b0010011#7 ∧ funct3Of w = 0b011#3 ∧ rd = rdOf w ∧ rs1 = rs1Of w ∧ imm = immIOf w
  | .xori rd rs1 imm => opcodeOf w = 0b0010011#7 ∧ funct3Of w = 0b100#3 ∧ rd = rdOf w ∧ rs1 = rs1Of w ∧ imm = immIOf w
  | .ori rd rs1 imm => opcodeOf w = 0b0010011#7 ∧ funct3Of w = 0b110#3 ∧ rd = rdOf w ∧ rs1 = rs1Of w ∧ imm = immIOf w
  | .andi rd rs1 imm => opcodeOf w = 0b0010011#7 ∧ funct3Of w = 0b111#3 ∧ rd = rdOf w ∧ rs1 = rs1Of w ∧ imm = immIOf w
  | .slli rd rs1 shamt => opcodeOf w = 0b0010011#7 ∧ funct3Of w = 0b001#3 ∧ rd = rdOf w ∧ rs1 = rs1Of w ∧ shamt = shamtOf w
  | .srli rd rs1 shamt => opcodeOf w = 0b0010011#7 ∧ funct3Of w = 0b101#3 ∧ altBitOf w = false ∧ rd = rdOf w ∧ rs1 = rs1Of w ∧ shamt = shamtOf w
  | .srai rd rs1 shamt => opcodeOf w = 0b0010011#7 ∧ funct3Of w = 0b101#3 ∧ altBitOf w = true ∧ rd = rdOf w ∧ rs1 = rs1Of w ∧ shamt = shamtOf w
  | .add rd rs1 rs2 => opcodeOf w = 0b0110011#7 ∧ funct3Of w = 0b000#3 ∧ altBitOf w = false ∧ rd = rdOf w ∧ rs1 = rs1Of w ∧ rs2 = rs2Of w
  | .sub rd rs1 rs2 => opcodeOf w = 0b0110011#7 ∧ funct3Of w = 0b000#3 ∧ altBitOf w = true ∧ rd = rdOf w ∧ rs1 = rs1Of w ∧ rs2 = rs2Of w
  | .sll rd rs1 rs2 => opcodeOf w = 0b0110011#7 ∧ funct3Of w = 0b001#3 ∧ rd = rdOf w ∧ rs1 = rs1Of w ∧ rs2 = rs2Of w
  | .slt rd rs1 rs2 => opcodeOf w = 0b0110011#7 ∧ funct3Of w = 0b010#3 ∧ rd = rdOf w ∧ rs1 = rs1Of w ∧ rs2 = rs2Of w
  | .sltu rd rs1 rs2 => opcodeOf w = 0b0110011#7 ∧ funct3Of w = 0b011#3 ∧ rd = rdOf w ∧ rs1 = rs1Of w ∧ rs2 = rs2Of w
  | .xor rd rs1 rs2 => opcodeOf w = 0b0110011#7 ∧ funct3Of w = 0b100#3 ∧ rd = rdOf w ∧ rs1 = rs1Of w ∧ rs2 = rs2Of w
  | .srl rd rs1 rs2 => opcodeOf w = 0b0110011#7 ∧ funct3Of w = 0b101#3 ∧ altBitOf w = false ∧ rd = rdOf w ∧ rs1 = rs1Of w ∧ rs2 = rs2Of w
  | .sra rd rs1 rs2 => opcodeOf w = 0b0110011#7 ∧ funct3Of w = 0b101#3 ∧ altBitOf w = true ∧ rd = rdOf w ∧ rs1 = rs1Of w ∧ rs2 = rs2Of w
  | .or rd rs1 rs2 => opcodeOf w = 0b0110011#7 ∧ funct3Of w = 0b110#3 ∧ rd = rdOf w ∧ rs1 = rs1Of w ∧ rs2 = rs2Of w
  | .and rd rs1 rs2 => opcodeOf w = 0b0110011#7 ∧ funct3Of w = 0b111#3 ∧ rd = rdOf w ∧ rs1 = rs1Of w ∧ rs2 = rs2Of w
  | .fence => opcodeOf w = 0b0001111#7
  | .ecall => opcodeOf w = 0b1110011#7
  | .ebreak => opcodeOf w = 0b1110011#7

theorem decodedFrom_of_dispatchBranch {w : Word} {i : Instr} (ho : opcodeOf w = 0b1100011#7)
    (h : dispatchBranch (funct3Of w) (rs1Of w) (rs2Of w) (immBOf w) = some i) : DecodedFrom w i := by
  unfold dispatchBranch at h
  split at h <;> cases h <;> rename_i hf <;> exact ⟨ho, hf, rfl, rfl, rfl⟩

theorem decodedFrom_of_dispatchLoad {w : Word} {i : Instr} (ho : opcodeOf w = 0b0000011#7)
    (h : dispatchLoad (funct3Of w) (rdOf w) (rs1Of w) (immIOf w) = some i) : DecodedFrom w i := by
  unfold dispatchLoad at h
  split at h <;> cases h <;> rename_i hf <;> exact ⟨ho, hf, rfl, rfl, rfl⟩

theorem decodedFrom_of_dispatchStore {w : Word} {i : Instr} (ho : opcodeOf w = 0b0100011#7)
    (h : dispatchStore (funct3Of w) (rs2Of w) (rs1Of w) (immSOf w) = some i) : DecodedFrom w i := by
  unfold dispatchStore at h
  split at h <;> cases h <;> rename_i hf <;> exact ⟨ho, hf, rfl, rfl, rfl⟩

theorem decodedFrom_of_dispatchOpImm {w : Word} {i : Instr} (ho : opcodeOf w = 0b0010011#7)
    (h : dispatchOpImm (funct3Of w) (altBitOf w) (rdOf w) (rs1Of w) (immIOf w) (shamtOf w) = some i) : DecodedFrom w i := by
  unfold dispatchOpImm at h
  split at h
  case h_8 hf =>
    split at h <;> cases h <;> rename_i ha
    · exact ⟨ho, hf, ha, rfl, rfl, rfl⟩
    · exact ⟨ho, hf, by simpa using ha, rfl, rfl, rfl⟩
  all_goals cases h <;> rename_i hf <;> exact ⟨ho, hf, rfl, rfl, rfl⟩

theorem decodedFrom_of_dispatchOp {w : Word} {i : Instr} (ho : opcodeOf w = 0b0110011#7)
    (h : dispatchOp (funct3Of w) (altBitOf w) (rdOf w) (rs1Of w) (rs2Of w) = some i) : DecodedFrom w i := by
  unfold dispatchOp at h
  split at h
  case h_1 hf =>
    split at h <;> cases h <;> rename_i ha
    · exact ⟨ho, hf, ha, rfl, rfl, rfl⟩
    · exact ⟨ho, hf, by simpa using ha, rfl, rfl, rfl⟩
  case h_6 hf =>
    split at h <;> cases h <;> rename_i ha
    · exact ⟨ho, hf, ha, rfl, rfl, rfl⟩
    · exact ⟨ho, hf, by simpa using ha, rfl, rfl, rfl⟩
  all_goals cases h <;> rename_i hf <;> exact ⟨ho, hf, rfl, rfl, rfl⟩

/-- The decoder answers `i` only for words whose key and fields select `i`. -/
theorem decodedFrom_of_decodeWord {w : Word} {i : Instr} (h : decodeWord w = .ok i) : DecodedFrom w i := by
  have hd : dispatch w = some i := by
    unfold decodeWord at h
    split at h
    · cases h
    · split at h
      · cases h
      · rename_i j hj; cases h; exact hj
  unfold dispatch at hd
  split at hd <;> rename_i ho
  · cases hd; exact ⟨ho, rfl, rfl⟩
  · cases hd; exact ⟨ho, rfl, rfl⟩
  · cases hd; exact ⟨ho, rfl, rfl⟩
  · split at hd
    · rename_i hf; cases hd; exact ⟨ho, hf, rfl, rfl, rfl⟩
    · cases hd
  · exact decodedFrom_of_dispatchBranch ho hd
  · exact decodedFrom_of_dispatchLoad ho hd
  · exact decodedFrom_of_dispatchStore ho hd
  · exact decodedFrom_of_dispatchOpImm ho hd
  · exact decodedFrom_of_dispatchOp ho hd
  · cases hd; exact ho
  · cases hd; unfold dispatchSystem; split <;> exact ho
  · cases hd

end Sys2Proof
end

