-- ==== Sys2Proof/Laws/State.lean ====
section
/-! SUPPORT. One lemma per field per update of State: what each `State.set…` makes of each field. -/

namespace Sys2Proof.Machine.State

variable (s : State)

@[simp] theorem setRegs_regs (v : Vector Word 32) : (s.setRegs v).regs = v := rfl
@[simp] theorem setRegs_pc (v : Vector Word 32) : (s.setRegs v).pc = s.pc := rfl
@[simp] theorem setRegs_jammed (v : Vector Word 32) : (s.setRegs v).jammed = s.jammed := rfl
@[simp] theorem setRegs_fault (v : Vector Word 32) : (s.setRegs v).fault = s.fault := rfl
@[simp] theorem setRegs_mem (v : Vector Word 32) : (s.setRegs v).mem = s.mem := rfl
@[simp] theorem setRegs_oracleRegions (v : Vector Word 32) : (s.setRegs v).oracleRegions = s.oracleRegions := rfl
@[simp] theorem setRegs_portLog (v : Vector Word 32) : (s.setRegs v).portLog = s.portLog := rfl

@[simp] theorem setPc_regs (v : Word) : (s.setPc v).regs = s.regs := rfl
@[simp] theorem setPc_pc (v : Word) : (s.setPc v).pc = v := rfl
@[simp] theorem setPc_jammed (v : Word) : (s.setPc v).jammed = s.jammed := rfl
@[simp] theorem setPc_fault (v : Word) : (s.setPc v).fault = s.fault := rfl
@[simp] theorem setPc_mem (v : Word) : (s.setPc v).mem = s.mem := rfl
@[simp] theorem setPc_oracleRegions (v : Word) : (s.setPc v).oracleRegions = s.oracleRegions := rfl
@[simp] theorem setPc_portLog (v : Word) : (s.setPc v).portLog = s.portLog := rfl

@[simp] theorem setJammed_regs (v : Bool) : (s.setJammed v).regs = s.regs := rfl
@[simp] theorem setJammed_pc (v : Bool) : (s.setJammed v).pc = s.pc := rfl
@[simp] theorem setJammed_jammed (v : Bool) : (s.setJammed v).jammed = v := rfl
@[simp] theorem setJammed_fault (v : Bool) : (s.setJammed v).fault = s.fault := rfl
@[simp] theorem setJammed_mem (v : Bool) : (s.setJammed v).mem = s.mem := rfl
@[simp] theorem setJammed_oracleRegions (v : Bool) : (s.setJammed v).oracleRegions = s.oracleRegions := rfl
@[simp] theorem setJammed_portLog (v : Bool) : (s.setJammed v).portLog = s.portLog := rfl

@[simp] theorem setFault_regs (v : FaultStatus) : (s.setFault v).regs = s.regs := rfl
@[simp] theorem setFault_pc (v : FaultStatus) : (s.setFault v).pc = s.pc := rfl
@[simp] theorem setFault_jammed (v : FaultStatus) : (s.setFault v).jammed = s.jammed := rfl
@[simp] theorem setFault_fault (v : FaultStatus) : (s.setFault v).fault = v := rfl
@[simp] theorem setFault_mem (v : FaultStatus) : (s.setFault v).mem = s.mem := rfl
@[simp] theorem setFault_oracleRegions (v : FaultStatus) : (s.setFault v).oracleRegions = s.oracleRegions := rfl
@[simp] theorem setFault_portLog (v : FaultStatus) : (s.setFault v).portLog = s.portLog := rfl

@[simp] theorem setMem_regs (v : Memory) : (s.setMem v).regs = s.regs := rfl
@[simp] theorem setMem_pc (v : Memory) : (s.setMem v).pc = s.pc := rfl
@[simp] theorem setMem_jammed (v : Memory) : (s.setMem v).jammed = s.jammed := rfl
@[simp] theorem setMem_fault (v : Memory) : (s.setMem v).fault = s.fault := rfl
@[simp] theorem setMem_mem (v : Memory) : (s.setMem v).mem = v := rfl
@[simp] theorem setMem_oracleRegions (v : Memory) : (s.setMem v).oracleRegions = s.oracleRegions := rfl
@[simp] theorem setMem_portLog (v : Memory) : (s.setMem v).portLog = s.portLog := rfl

@[simp] theorem setOracleRegions_regs (v : List Region) : (s.setOracleRegions v).regs = s.regs := rfl
@[simp] theorem setOracleRegions_pc (v : List Region) : (s.setOracleRegions v).pc = s.pc := rfl
@[simp] theorem setOracleRegions_jammed (v : List Region) : (s.setOracleRegions v).jammed = s.jammed := rfl
@[simp] theorem setOracleRegions_fault (v : List Region) : (s.setOracleRegions v).fault = s.fault := rfl
@[simp] theorem setOracleRegions_mem (v : List Region) : (s.setOracleRegions v).mem = s.mem := rfl
@[simp] theorem setOracleRegions_oracleRegions (v : List Region) : (s.setOracleRegions v).oracleRegions = v := rfl
@[simp] theorem setOracleRegions_portLog (v : List Region) : (s.setOracleRegions v).portLog = s.portLog := rfl

@[simp] theorem setPortLog_regs (v : List PortOp) : (s.setPortLog v).regs = s.regs := rfl
@[simp] theorem setPortLog_pc (v : List PortOp) : (s.setPortLog v).pc = s.pc := rfl
@[simp] theorem setPortLog_jammed (v : List PortOp) : (s.setPortLog v).jammed = s.jammed := rfl
@[simp] theorem setPortLog_fault (v : List PortOp) : (s.setPortLog v).fault = s.fault := rfl
@[simp] theorem setPortLog_mem (v : List PortOp) : (s.setPortLog v).mem = s.mem := rfl
@[simp] theorem setPortLog_oracleRegions (v : List PortOp) : (s.setPortLog v).oracleRegions = s.oracleRegions := rfl
@[simp] theorem setPortLog_portLog (v : List PortOp) : (s.setPortLog v).portLog = v := rfl

end Sys2Proof.Machine.State
end

