-- ==== Sys2Proof/Laws/Registers.lean ====
section
/-! SUPPORT. The register file: what a read sees after a write, and that x0 is hard-wired. -/

namespace Sys2Proof.Machine

@[simp] theorem readReg_x0 (s : State) : readReg s 0#5 = 0#32 := by simp [readReg]

theorem readReg_of_regs_eq {s t : State} (h : t.regs = s.regs) (r : RegIdx) : readReg t r = readReg s r := by
  unfold readReg; rw [h]

@[simp] theorem readReg_setPc (s : State) (v : Word) (r : RegIdx) : readReg (s.setPc v) r = readReg s r := rfl
@[simp] theorem readReg_setJammed (s : State) (v : Bool) (r : RegIdx) : readReg (s.setJammed v) r = readReg s r := rfl
@[simp] theorem readReg_setFault (s : State) (v : FaultStatus) (r : RegIdx) : readReg (s.setFault v) r = readReg s r := rfl
@[simp] theorem readReg_setMem (s : State) (v : Memory) (r : RegIdx) : readReg (s.setMem v) r = readReg s r := rfl
@[simp] theorem readReg_setOracleRegions (s : State) (v : List Region) (r : RegIdx) : readReg (s.setOracleRegions v) r = readReg s r := rfl
@[simp] theorem readReg_setPortLog (s : State) (v : List PortOp) (r : RegIdx) : readReg (s.setPortLog v) r = readReg s r := rfl

@[simp] theorem writeReg_x0 (s : State) (v : Word) : writeReg s 0#5 v = s := by simp [writeReg]

theorem writeReg_eq_setRegs (s : State) (r : RegIdx) (v : Word) : ∃ q, writeReg s r v = s.setRegs q := by
  unfold writeReg
  split
  · exact ⟨s.regs, rfl⟩
  · exact ⟨_, rfl⟩

@[simp] theorem writeReg_pc (s : State) (r : RegIdx) (v : Word) : (writeReg s r v).pc = s.pc := by
  obtain ⟨q, h⟩ := writeReg_eq_setRegs s r v; rw [h]; rfl
@[simp] theorem writeReg_jammed (s : State) (r : RegIdx) (v : Word) : (writeReg s r v).jammed = s.jammed := by
  obtain ⟨q, h⟩ := writeReg_eq_setRegs s r v; rw [h]; rfl
@[simp] theorem writeReg_fault (s : State) (r : RegIdx) (v : Word) : (writeReg s r v).fault = s.fault := by
  obtain ⟨q, h⟩ := writeReg_eq_setRegs s r v; rw [h]; rfl
@[simp] theorem writeReg_mem (s : State) (r : RegIdx) (v : Word) : (writeReg s r v).mem = s.mem := by
  obtain ⟨q, h⟩ := writeReg_eq_setRegs s r v; rw [h]; rfl
@[simp] theorem writeReg_oracleRegions (s : State) (r : RegIdx) (v : Word) : (writeReg s r v).oracleRegions = s.oracleRegions := by
  obtain ⟨q, h⟩ := writeReg_eq_setRegs s r v; rw [h]; rfl
@[simp] theorem writeReg_portLog (s : State) (r : RegIdx) (v : Word) : (writeReg s r v).portLog = s.portLog := by
  obtain ⟨q, h⟩ := writeReg_eq_setRegs s r v; rw [h]; rfl

/-- The register written reads the value, unless it is x0. -/
theorem readReg_writeReg_same (s : State) (r : RegIdx) (v : Word) :
    readReg (writeReg s r v) r = if r = 0#5 then 0#32 else v := by
  unfold readReg writeReg
  by_cases h : r = 0#5
  · rw [if_pos h, if_pos h]
  · rw [if_neg h, if_neg h, if_neg h]; simp [State.setRegs]

/-- Every other register reads as before. -/
theorem readReg_writeReg_ne {s : State} {r q : RegIdx} (v : Word) (h : q ≠ r) :
    readReg (writeReg s r v) q = readReg s q := by
  unfold readReg writeReg
  have hn : r.toNat ≠ q.toNat := fun e => h (BitVec.eq_of_toNat_eq e.symm)
  by_cases hr : r = 0#5
  · rw [if_pos hr]
  · rw [if_neg hr]
    by_cases hq : q = 0#5
    · rw [if_pos hq, if_pos hq]
    · rw [if_neg hq, if_neg hq]; simp [State.setRegs, hn]

/-- No write reaches the slot of x0. -/
theorem writeReg_slot_zero (s : State) (r : RegIdx) (v : Word) : (writeReg s r v).regs[0] = s.regs[0] := by
  unfold writeReg
  by_cases hr : r = 0#5
  · rw [if_pos hr]
  · rw [if_neg hr]
    have : r.toNat ≠ 0 := fun e => hr (BitVec.eq_of_toNat_eq e)
    simp [State.setRegs, this]

end Sys2Proof.Machine
end

