-- ==== Sys2Proof/Laws/Port.lean ====
section
/-! SUPPORT. The port: once for each operation, everything it can do. -/

namespace Sys2Proof.Machine

open Sys2Proof.Safety

@[simp] theorem isOracle_setPc (s : State) (v : Word) (a : Word) : isOracle (s.setPc v) a = isOracle s a := rfl
@[simp] theorem isOracle_setMem (s : State) (v : Memory) (a : Word) : isOracle (s.setMem v) a = isOracle s a := rfl
@[simp] theorem isOracle_setPortLog (s : State) (v : List PortOp) (a : Word) : isOracle (s.setPortLog v) a = isOracle s a := rfl
@[simp] theorem isOracle_logPort (op : PortOp) (s : State) (a : Word) : isOracle (logPort op s) a = isOracle s a := rfl
@[simp] theorem ramByte_setPc (s : State) (v : Word) (a : Word) : ramByte (s.setPc v) a = ramByte s a := rfl
@[simp] theorem ramByte_setPortLog (s : State) (v : List PortOp) (a : Word) : ramByte (s.setPortLog v) a = ramByte s a := rfl
@[simp] theorem ramByte_logPort (op : PortOp) (s : State) (a : Word) : ramByte (logPort op s) a = ramByte s a := rfl

theorem ramByte_of_mem_eq {s t : State} (h : t.mem = s.mem) (a : Word) : ramByte t a = ramByte s a := by
  unfold ramByte; rw [h]

theorem isOracle_of_regions_eq {s t : State} (h : t.oracleRegions = s.oracleRegions) (a : Word) :
    isOracle t a = isOracle s a := by
  unfold isOracle; rw [h]

theorem portByte_of_storage {s : State} {a : Word} (h : Storage s a) : portByte s a = ramByte s a := by
  unfold Storage at h; simp [portByte, h]

theorem storage_of_hostRam {s : State} (h : HostRam s) (a : Word) : Storage s a := by
  unfold HostRam at h; simp [Storage, isOracle, h]

/-- A read changes the history alone. -/
theorem readByte_eq (a : Word) (s : State) :
    readByte a s = (portByte s a, s.setPortLog (.read a (portByte s a) :: s.portLog)) := rfl

/-- A 2-byte read: the two bytes, low one first, and the two operations. -/
theorem memRead2_eq (a : Word) (s : State) : ∃ b0 b1,
    memRead2 a s = (joinHalf b0 b1, s.setPortLog ([.read (a + 1#32) b1, .read a b0] ++ s.portLog)) ∧
    ReadFrom s a b0 ∧ ReadFrom s (a + 1#32) b1 :=
  ⟨_, _, rfl, fun h => portByte_of_storage h, fun h => portByte_of_storage (s := logPort _ s) h⟩

/-- A 4-byte read: the four bytes, low one first, and the four operations. -/
theorem memRead4_eq (a : Word) (s : State) : ∃ b0 b1 b2 b3,
    memRead4 a s = (joinWord b0 b1 b2 b3,
      s.setPortLog ([.read (a + 3#32) b3, .read (a + 2#32) b2, .read (a + 1#32) b1, .read a b0] ++ s.portLog)) ∧
    ReadFrom s a b0 ∧ ReadFrom s (a + 1#32) b1 ∧ ReadFrom s (a + 2#32) b2 ∧ ReadFrom s (a + 3#32) b3 :=
  ⟨_, _, _, _, rfl, fun h => portByte_of_storage h, fun h => portByte_of_storage (s := logPort _ s) h,
    fun h => portByte_of_storage (s := logPort _ (logPort _ s)) h,
    fun h => portByte_of_storage (s := logPort _ (logPort _ (logPort _ s))) h⟩

/-- On storage a 4-byte read assembles the stored bytes. -/
theorem memRead4_fst_of_storage (a : Word) (s : State) (h0 : Storage s a) (h1 : Storage s (a + 1#32))
    (h2 : Storage s (a + 2#32)) (h3 : Storage s (a + 3#32)) :
    (memRead4 a s).1 = joinWord (ramByte s a) (ramByte s (a + 1#32)) (ramByte s (a + 2#32)) (ramByte s (a + 3#32)) := by
  obtain ⟨b0, b1, b2, b3, he, r0, r1, r2, r3⟩ := memRead4_eq a s
  rw [he, ← r0 h0, ← r1 h1, ← r2 h2, ← r3 h3]

/-! ### Writes -/

@[simp] theorem writeByte_regs (a : Word) (b : Byte) (s : State) : (writeByte a b s).regs = s.regs := by
  unfold writeByte logPort; split <;> rfl
@[simp] theorem writeByte_pc (a : Word) (b : Byte) (s : State) : (writeByte a b s).pc = s.pc := by
  unfold writeByte logPort; split <;> rfl
@[simp] theorem writeByte_jammed (a : Word) (b : Byte) (s : State) : (writeByte a b s).jammed = s.jammed := by
  unfold writeByte logPort; split <;> rfl
@[simp] theorem writeByte_fault (a : Word) (b : Byte) (s : State) : (writeByte a b s).fault = s.fault := by
  unfold writeByte logPort; split <;> rfl
@[simp] theorem writeByte_oracleRegions (a : Word) (b : Byte) (s : State) : (writeByte a b s).oracleRegions = s.oracleRegions := by
  unfold writeByte logPort; split <;> rfl
@[simp] theorem writeByte_portLog (a : Word) (b : Byte) (s : State) : (writeByte a b s).portLog = .write a b :: s.portLog := by
  unfold writeByte logPort; split <;> rfl
@[simp] theorem isOracle_writeByte (a : Word) (b : Byte) (s : State) (x : Word) : isOracle (writeByte a b s) x = isOracle s x := by
  unfold isOracle; simp
@[simp] theorem readReg_writeByte (a : Word) (b : Byte) (s : State) (r : RegIdx) : readReg (writeByte a b s) r = readReg s r :=
  readReg_of_regs_eq (writeByte_regs a b s) r

/-- What storage holds after a one-byte write. -/
theorem ramByte_writeByte_ne {a x : Word} (b : Byte) (s : State) (h : x ≠ a) : ramByte (writeByte a b s) x = ramByte s x := by
  have hn : x.toNat ≠ a.toNat := fun e => h (BitVec.eq_of_toNat_eq e)
  unfold writeByte
  split
  · rfl
  · exact Memory.read_write_ne s.mem b hn

theorem ramByte_writeByte_same {a : Word} (b : Byte) (s : State) (hm : Memory.wf s.mem = true) (hs : Storage s a) :
    ramByte (writeByte a b s) a = b := by
  unfold Storage at hs
  simp only [writeByte, hs, Bool.false_eq_true, if_false]
  exact Memory.read_write_same s.mem a.toNat b hm

theorem ramByte_writeByte_oracle {a : Word} (b : Byte) (s : State) (hs : isOracle s a = true) (x : Word) :
    ramByte (writeByte a b s) x = ramByte s x := by
  simp only [writeByte, hs, if_true]; rfl

theorem wf_writeByte (a : Word) (b : Byte) (s : State) (hm : Memory.wf s.mem = true) :
    Memory.wf (writeByte a b s).mem = true := by
  unfold writeByte
  split
  · exact hm
  · exact Memory.wf_write s.mem a b hm

/-! ### Fetch -/

@[simp] theorem afterFetch_pc (s : State) : (afterFetch s).pc = s.pc + 4#32 := rfl
@[simp] theorem afterFetch_regs (s : State) : (afterFetch s).regs = s.regs := rfl
@[simp] theorem afterFetch_jammed (s : State) : (afterFetch s).jammed = s.jammed := rfl
@[simp] theorem afterFetch_fault (s : State) : (afterFetch s).fault = s.fault := rfl
@[simp] theorem afterFetch_mem (s : State) : (afterFetch s).mem = s.mem := rfl
@[simp] theorem afterFetch_oracleRegions (s : State) : (afterFetch s).oracleRegions = s.oracleRegions := rfl
@[simp] theorem readReg_afterFetch (s : State) (r : RegIdx) : readReg (afterFetch s) r = readReg s r := rfl
@[simp] theorem ramByte_afterFetch (s : State) (a : Word) : ramByte (afterFetch s) a = ramByte s a := rfl
@[simp] theorem isOracle_afterFetch (s : State) (a : Word) : isOracle (afterFetch s) a = isOracle s a := rfl

end Sys2Proof.Machine
end

