-- ==== Sys2Proof/Laws/Exec.lean ====
section
/-! SUPPORT. For each shared operation of the meanings, once, everything it can do; and that each keeps the machine's
invariant. -/

namespace Sys2Proof.Machine

open Sys2Proof.Safety

theorem writesOnly_writeReg (rd : RegIdx) (v : Word) (s : State) : WritesOnly rd v s (writeReg s rd v) where
  result := readReg_writeReg_same s rd v
  regs := fun _ h => readReg_writeReg_ne v h
  pc := writeReg_pc s rd v
  status := ⟨writeReg_jammed s rd v, writeReg_fault s rd v⟩
  mem := ramByte_of_mem_eq (writeReg_mem s rd v)
  host := writeReg_oracleRegions s rd v
  port := writeReg_portLog s rd v

theorem retire_writesOnly (rd : RegIdx) (v : Word) (s : State) :
    ∃ t, retire rd v s = .next t ∧ WritesOnly rd v s t :=
  ⟨_, rfl, writesOnly_writeReg rd v s⟩

theorem linkAndJump_links (rd : RegIdx) (target : Word) (s : State) :
    ∃ t, linkAndJump rd target s = .next t ∧ LinksAndJumps rd s.pc target s t :=
  ⟨_, rfl, readReg_writeReg_same s rd s.pc, fun _ h => readReg_writeReg_ne _ h, rfl,
    ⟨writeReg_jammed s rd s.pc, writeReg_fault s rd s.pc⟩, ramByte_of_mem_eq (writeReg_mem s rd s.pc),
    writeReg_oracleRegions s rd s.pc, writeReg_portLog s rd s.pc⟩

theorem branchIf_setsPc (cond : Bool) (off : BitVec 13) (s : State) :
    ∃ t, branchIf cond off s = .next t ∧ SetsPcOnly (if cond then branchTarget s off else s.pc) s t := by
  cases cond
  · exact ⟨_, rfl, rfl, fun _ => rfl, ⟨rfl, rfl⟩, fun _ => rfl, rfl, rfl⟩
  · exact ⟨_, rfl, rfl, fun _ => rfl, ⟨rfl, rfl⟩, fun _ => rfl, rfl, rfl⟩

/-- A load whose reads changed the history alone. -/
theorem loadInto_loads {n : Nat} (rd : RegIdx) (ext : BitVec n → Word) (v : BitVec n) (ops : List PortOp) (s : State) :
    ∃ t, loadInto rd ext (v, s.setPortLog (ops ++ s.portLog)) = .next t ∧ LoadsOnly rd (ext v) ops s t :=
  have w := writesOnly_writeReg rd (ext v) (s.setPortLog (ops ++ s.portLog))
  ⟨_, rfl, w.result, w.regs, w.pc, w.status, w.mem, w.host, w.port⟩

/-! ### Stores -/

/-- One of the addresses `ea`, …, `ea + (n - 1)` is at distance k < n from `ea`, and no two of them coincide. -/
theorem add_sub_cancel_word (ea : Word) (k : Nat) (hk : k < 2 ^ 32) : (ea + BitVec.ofNat 32 k - ea).toNat = k := by
  have h : ea + BitVec.ofNat 32 k - ea = BitVec.ofNat 32 k := by
    rw [BitVec.add_comm]; exact BitVec.add_sub_cancel _ _
  rw [h, BitVec.toNat_ofNat, Nat.mod_eq_of_lt hk]

theorem eq_add_of_distance {a ea : Word} {k : Nat} (h : (a - ea).toNat = k) : a = ea + BitVec.ofNat 32 k := by
  have h1 : a - ea = BitVec.ofNat 32 k := by rw [← h, BitVec.ofNat_toNat, BitVec.setWidth_eq]
  rw [← h1, BitVec.add_comm, BitVec.sub_add_cancel]

theorem storesOnly_memWrite1 (ea v : Word) (s : State) (hm : Memory.wf s.mem = true) :
    StoresOnly 1 ea v [.write ea (wordByte v 0)] s (memWrite1 ea v s) where
  stored := by
    intro a b hb hs
    unfold storedByte at hb
    split at hb
    · rename_i hd
      have h0 : (a - ea).toNat = 0 := by omega
      have ha : a = ea := by simpa using eq_add_of_distance h0
      subst ha
      cases hb
      rw [h0]
      exact ramByte_writeByte_same _ s hm hs
    · cases hb
  notStorage := by
    intro a ha
    by_cases h : a = ea
    · subst h; exact ramByte_writeByte_oracle _ s (by simpa [Storage] using ha) _
    · exact ramByte_writeByte_ne _ s h
  mem := by
    intro a ha
    refine ramByte_writeByte_ne _ s (fun h => ?_)
    subst h
    simp [storedByte] at ha
  regs := fun r => readReg_writeByte _ _ _ r
  pc := writeByte_pc _ _ _
  status := ⟨writeByte_jammed _ _ _, writeByte_fault _ _ _⟩
  host := writeByte_oracleRegions _ _ _
  port := writeByte_portLog _ _ _

/-- A further byte, at distance `n`, after the first `n`. -/
theorem storesOnly_writeByte {n : Nat} {ea v : Word} {ops : List PortOp} {s t : State} (hn : n < 2 ^ 32 - 1)
    (hm : Memory.wf t.mem = true) (h : StoresOnly n ea v ops s t) :
    StoresOnly (n + 1) ea v (.write (ea + BitVec.ofNat 32 n) (wordByte v n) :: ops) s
      (writeByte (ea + BitVec.ofNat 32 n) (wordByte v n) t) where
  stored := by
    intro a b hb hs
    have hst : Storage t a := by unfold Storage at hs ⊢; rw [isOracle_of_regions_eq h.host]; exact hs
    unfold storedByte at hb
    split at hb
    · rename_i hd
      by_cases hk : (a - ea).toNat = n
      · have ha := eq_add_of_distance hk
        rw [hk] at hb
        cases hb
        rw [← ha]
        exact ramByte_writeByte_same _ t hm hst
      · have hne : a ≠ ea + BitVec.ofNat 32 n := fun e => hk (by rw [e]; exact add_sub_cancel_word ea n (by omega))
        rw [ramByte_writeByte_ne _ t hne]
        refine h.stored a b ?_ hs
        unfold storedByte
        rw [if_pos (by omega)]
        exact hb
    · cases hb
  notStorage := by
    intro a ha
    have hst : ¬ Storage t a := by unfold Storage at ha ⊢; rw [isOracle_of_regions_eq h.host]; exact ha
    rw [← h.notStorage a ha]
    by_cases e : a = ea + BitVec.ofNat 32 n
    · rw [e] at hst ⊢; exact ramByte_writeByte_oracle _ t (by simpa [Storage] using hst) _
    · exact ramByte_writeByte_ne _ t e
  mem := by
    intro a ha
    have hd : ¬ (a - ea).toNat < n + 1 := by
      intro hlt
      unfold storedByte at ha
      rw [if_pos hlt] at ha
      cases ha
    rw [← h.mem a (by unfold storedByte; rw [if_neg (by omega)])]
    refine ramByte_writeByte_ne _ t (fun e => hd ?_)
    rw [e, add_sub_cancel_word ea n (by omega)]
    omega
  regs := fun r => by rw [readReg_writeByte]; exact h.regs r
  pc := by rw [writeByte_pc]; exact h.pc
  status := ⟨by rw [writeByte_jammed]; exact h.status.1, by rw [writeByte_fault]; exact h.status.2⟩
  host := by rw [HostKept, writeByte_oracleRegions]; exact h.host
  port := by rw [writeByte_portLog, h.port]; rfl

theorem storesOnly_memWrite2 (ea v : Word) (s : State) (hm : Memory.wf s.mem = true) :
    StoresOnly 2 ea v [.write (ea + 1#32) (wordByte v 1), .write ea (wordByte v 0)] s (memWrite2 ea v s) :=
  storesOnly_writeByte (by decide) (wf_writeByte _ _ s hm) (storesOnly_memWrite1 ea v s hm)

theorem storesOnly_memWrite4 (ea v : Word) (s : State) (hm : Memory.wf s.mem = true) :
    StoresOnly 4 ea v [.write (ea + 3#32) (wordByte v 3), .write (ea + 2#32) (wordByte v 2),
      .write (ea + 1#32) (wordByte v 1), .write ea (wordByte v 0)] s (memWrite4 ea v s) :=
  storesOnly_writeByte (by decide) (wf_writeByte _ _ _ (wf_writeByte _ _ _ (wf_writeByte _ _ s hm)))
    (storesOnly_writeByte (by decide) (wf_writeByte _ _ _ (wf_writeByte _ _ s hm)) (storesOnly_memWrite2 ea v s hm))

/-! ### The invariant -/

theorem inv_writeReg {s : State} (h : MachineInv s) (rd : RegIdx) (v : Word) : MachineInv (writeReg s rd v) where
  memory := by rw [writeReg_mem]; exact h.memory
  zero := by rw [writeReg_slot_zero]; exact h.zero
  oneStop := by rw [writeReg_jammed, writeReg_fault]; exact h.oneStop

theorem inv_setPc {s : State} (h : MachineInv s) (v : Word) : MachineInv (s.setPc v) := ⟨h.memory, h.zero, h.oneStop⟩

theorem inv_setPortLog {s : State} (h : MachineInv s) (v : List PortOp) : MachineInv (s.setPortLog v) := ⟨h.memory, h.zero, h.oneStop⟩

theorem inv_writeByte {s : State} (h : MachineInv s) (a : Word) (b : Byte) : MachineInv (writeByte a b s) where
  memory := wf_writeByte a b s h.memory
  zero := by simp only [writeByte_regs]; exact h.zero
  oneStop := by rw [writeByte_jammed, writeByte_fault]; exact h.oneStop

end Sys2Proof.Machine
end

