-- ==== Sys2Proof/Laws/PerInstr.lean ====
section
/-! SUPPORT. Statements about every instruction as syntax, one lemma per constructor. Family RowMatch: the word the
encoder writes lies in the instruction's row of the opcode table (30_encoding.md R87). -/

namespace Sys2Proof.Laws.RowMatch

/-- The encoded word agrees with the row's match on the bits of the row's mask. -/
def Statement (i : Instr) : Prop := encode i &&& i.rowMask = i.rowMatch

/-- A row selected by the opcode alone. -/
theorem opcodeRow {w m : Word} {op : BitVec 7} (ho : opcodeOf w = op) (hm : op.setWidth 32 = m) :
    w &&& 0x0000007F#32 = m := by rw [and_opcodeMask, ho, hm]

/-- A row selected by the opcode and funct3. -/
theorem funct3Row {w m : Word} {op : BitVec 7} {f3 : BitVec 3} (ho : opcodeOf w = op) (hf : funct3Of w = f3)
    (hm : (f3.setWidth 32 <<< 12) ||| op.setWidth 32 = m) : w &&& 0x0000707F#32 = m := by
  rw [and_funct3Mask, ho, hf, hm]

/-- A row selected by the opcode, funct3 and w[30]. -/
theorem altRow {w m : Word} {op : BitVec 7} {f3 : BitVec 3} {alt : Bool} (ho : opcodeOf w = op) (hf : funct3Of w = f3)
    (ha : altBitOf w = alt) (hm : (if alt then 0x40000000#32 else 0#32) ||| (f3.setWidth 32 <<< 12) ||| op.setWidth 32 = m) :
    w &&& 0x4000707F#32 = m := by
  rw [and_altMask, ho, hf, ha, hm]

theorem lui (rd : RegIdx) (imm : BitVec 20) : Statement (.lui rd imm) :=
  opcodeRow (opcodeOf_encodeU _ _ _) rfl

theorem auipc (rd : RegIdx) (imm : BitVec 20) : Statement (.auipc rd imm) :=
  opcodeRow (opcodeOf_encodeU _ _ _) rfl

theorem jal (rd : RegIdx) (off : BitVec 21) : Statement (.jal rd off) :=
  opcodeRow (opcodeOf_encodeJ _ _ _) rfl

theorem jalr (rd : RegIdx) (rs1 : RegIdx) (imm : BitVec 12) : Statement (.jalr rd rs1 imm) :=
  funct3Row (opcodeOf_encodeI _ _ _ _ _) (funct3Of_encodeI _ _ _ _ _) rfl

theorem beq (rs1 : RegIdx) (rs2 : RegIdx) (off : BitVec 13) : Statement (.beq rs1 rs2 off) :=
  funct3Row (opcodeOf_encodeB _ _ _ _ _) (funct3Of_encodeB _ _ _ _ _) rfl

theorem bne (rs1 : RegIdx) (rs2 : RegIdx) (off : BitVec 13) : Statement (.bne rs1 rs2 off) :=
  funct3Row (opcodeOf_encodeB _ _ _ _ _) (funct3Of_encodeB _ _ _ _ _) rfl

theorem blt (rs1 : RegIdx) (rs2 : RegIdx) (off : BitVec 13) : Statement (.blt rs1 rs2 off) :=
  funct3Row (opcodeOf_encodeB _ _ _ _ _) (funct3Of_encodeB _ _ _ _ _) rfl

theorem bge (rs1 : RegIdx) (rs2 : RegIdx) (off : BitVec 13) : Statement (.bge rs1 rs2 off) :=
  funct3Row (opcodeOf_encodeB _ _ _ _ _) (funct3Of_encodeB _ _ _ _ _) rfl

theorem bltu (rs1 : RegIdx) (rs2 : RegIdx) (off : BitVec 13) : Statement (.bltu rs1 rs2 off) :=
  funct3Row (opcodeOf_encodeB _ _ _ _ _) (funct3Of_encodeB _ _ _ _ _) rfl

theorem bgeu (rs1 : RegIdx) (rs2 : RegIdx) (off : BitVec 13) : Statement (.bgeu rs1 rs2 off) :=
  funct3Row (opcodeOf_encodeB _ _ _ _ _) (funct3Of_encodeB _ _ _ _ _) rfl

theorem lb (rd : RegIdx) (rs1 : RegIdx) (imm : BitVec 12) : Statement (.lb rd rs1 imm) :=
  funct3Row (opcodeOf_encodeI _ _ _ _ _) (funct3Of_encodeI _ _ _ _ _) rfl

theorem lh (rd : RegIdx) (rs1 : RegIdx) (imm : BitVec 12) : Statement (.lh rd rs1 imm) :=
  funct3Row (opcodeOf_encodeI _ _ _ _ _) (funct3Of_encodeI _ _ _ _ _) rfl

theorem lw (rd : RegIdx) (rs1 : RegIdx) (imm : BitVec 12) : Statement (.lw rd rs1 imm) :=
  funct3Row (opcodeOf_encodeI _ _ _ _ _) (funct3Of_encodeI _ _ _ _ _) rfl

theorem lbu (rd : RegIdx) (rs1 : RegIdx) (imm : BitVec 12) : Statement (.lbu rd rs1 imm) :=
  funct3Row (opcodeOf_encodeI _ _ _ _ _) (funct3Of_encodeI _ _ _ _ _) rfl

theorem lhu (rd : RegIdx) (rs1 : RegIdx) (imm : BitVec 12) : Statement (.lhu rd rs1 imm) :=
  funct3Row (opcodeOf_encodeI _ _ _ _ _) (funct3Of_encodeI _ _ _ _ _) rfl

theorem sb (rs2 : RegIdx) (rs1 : RegIdx) (imm : BitVec 12) : Statement (.sb rs2 rs1 imm) :=
  funct3Row (opcodeOf_encodeS _ _ _ _ _) (funct3Of_encodeS _ _ _ _ _) rfl

theorem sh (rs2 : RegIdx) (rs1 : RegIdx) (imm : BitVec 12) : Statement (.sh rs2 rs1 imm) :=
  funct3Row (opcodeOf_encodeS _ _ _ _ _) (funct3Of_encodeS _ _ _ _ _) rfl

theorem sw (rs2 : RegIdx) (rs1 : RegIdx) (imm : BitVec 12) : Statement (.sw rs2 rs1 imm) :=
  funct3Row (opcodeOf_encodeS _ _ _ _ _) (funct3Of_encodeS _ _ _ _ _) rfl

theorem addi (rd : RegIdx) (rs1 : RegIdx) (imm : BitVec 12) : Statement (.addi rd rs1 imm) :=
  funct3Row (opcodeOf_encodeI _ _ _ _ _) (funct3Of_encodeI _ _ _ _ _) rfl

theorem slti (rd : RegIdx) (rs1 : RegIdx) (imm : BitVec 12) : Statement (.slti rd rs1 imm) :=
  funct3Row (opcodeOf_encodeI _ _ _ _ _) (funct3Of_encodeI _ _ _ _ _) rfl

theorem sltiu (rd : RegIdx) (rs1 : RegIdx) (imm : BitVec 12) : Statement (.sltiu rd rs1 imm) :=
  funct3Row (opcodeOf_encodeI _ _ _ _ _) (funct3Of_encodeI _ _ _ _ _) rfl

theorem xori (rd : RegIdx) (rs1 : RegIdx) (imm : BitVec 12) : Statement (.xori rd rs1 imm) :=
  funct3Row (opcodeOf_encodeI _ _ _ _ _) (funct3Of_encodeI _ _ _ _ _) rfl

theorem ori (rd : RegIdx) (rs1 : RegIdx) (imm : BitVec 12) : Statement (.ori rd rs1 imm) :=
  funct3Row (opcodeOf_encodeI _ _ _ _ _) (funct3Of_encodeI _ _ _ _ _) rfl

theorem andi (rd : RegIdx) (rs1 : RegIdx) (imm : BitVec 12) : Statement (.andi rd rs1 imm) :=
  funct3Row (opcodeOf_encodeI _ _ _ _ _) (funct3Of_encodeI _ _ _ _ _) rfl

theorem slli (rd : RegIdx) (rs1 : RegIdx) (shamt : BitVec 5) : Statement (.slli rd rs1 shamt) :=
  funct3Row (opcodeOf_encodeR _ _ _ _ _ _) (funct3Of_encodeR _ _ _ _ _ _) rfl

theorem srli (rd : RegIdx) (rs1 : RegIdx) (shamt : BitVec 5) : Statement (.srli rd rs1 shamt) :=
  altRow (opcodeOf_encodeR _ _ _ _ _ _) (funct3Of_encodeR _ _ _ _ _ _) (altBitOf_encodeR _ _ _ _ _ _) rfl

theorem srai (rd : RegIdx) (rs1 : RegIdx) (shamt : BitVec 5) : Statement (.srai rd rs1 shamt) :=
  altRow (opcodeOf_encodeR _ _ _ _ _ _) (funct3Of_encodeR _ _ _ _ _ _) (altBitOf_encodeR _ _ _ _ _ _) rfl

theorem add (rd : RegIdx) (rs1 : RegIdx) (rs2 : RegIdx) : Statement (.add rd rs1 rs2) :=
  altRow (opcodeOf_encodeR _ _ _ _ _ _) (funct3Of_encodeR _ _ _ _ _ _) (altBitOf_encodeR _ _ _ _ _ _) rfl

theorem sub (rd : RegIdx) (rs1 : RegIdx) (rs2 : RegIdx) : Statement (.sub rd rs1 rs2) :=
  altRow (opcodeOf_encodeR _ _ _ _ _ _) (funct3Of_encodeR _ _ _ _ _ _) (altBitOf_encodeR _ _ _ _ _ _) rfl

theorem sll (rd : RegIdx) (rs1 : RegIdx) (rs2 : RegIdx) : Statement (.sll rd rs1 rs2) :=
  funct3Row (opcodeOf_encodeR _ _ _ _ _ _) (funct3Of_encodeR _ _ _ _ _ _) rfl

theorem slt (rd : RegIdx) (rs1 : RegIdx) (rs2 : RegIdx) : Statement (.slt rd rs1 rs2) :=
  funct3Row (opcodeOf_encodeR _ _ _ _ _ _) (funct3Of_encodeR _ _ _ _ _ _) rfl

theorem sltu (rd : RegIdx) (rs1 : RegIdx) (rs2 : RegIdx) : Statement (.sltu rd rs1 rs2) :=
  funct3Row (opcodeOf_encodeR _ _ _ _ _ _) (funct3Of_encodeR _ _ _ _ _ _) rfl

theorem xor (rd : RegIdx) (rs1 : RegIdx) (rs2 : RegIdx) : Statement (.xor rd rs1 rs2) :=
  funct3Row (opcodeOf_encodeR _ _ _ _ _ _) (funct3Of_encodeR _ _ _ _ _ _) rfl

theorem srl (rd : RegIdx) (rs1 : RegIdx) (rs2 : RegIdx) : Statement (.srl rd rs1 rs2) :=
  altRow (opcodeOf_encodeR _ _ _ _ _ _) (funct3Of_encodeR _ _ _ _ _ _) (altBitOf_encodeR _ _ _ _ _ _) rfl

theorem sra (rd : RegIdx) (rs1 : RegIdx) (rs2 : RegIdx) : Statement (.sra rd rs1 rs2) :=
  altRow (opcodeOf_encodeR _ _ _ _ _ _) (funct3Of_encodeR _ _ _ _ _ _) (altBitOf_encodeR _ _ _ _ _ _) rfl

theorem or (rd : RegIdx) (rs1 : RegIdx) (rs2 : RegIdx) : Statement (.or rd rs1 rs2) :=
  funct3Row (opcodeOf_encodeR _ _ _ _ _ _) (funct3Of_encodeR _ _ _ _ _ _) rfl

theorem and (rd : RegIdx) (rs1 : RegIdx) (rs2 : RegIdx) : Statement (.and rd rs1 rs2) :=
  funct3Row (opcodeOf_encodeR _ _ _ _ _ _) (funct3Of_encodeR _ _ _ _ _ _) rfl

theorem fence : Statement .fence := by
  unfold Statement; decide

theorem ecall : Statement .ecall := by
  unfold Statement; decide

theorem ebreak : Statement .ebreak := by
  unfold Statement; decide

end Sys2Proof.Laws.RowMatch
end

