-- ==== Sys2Proof/Tests/Slice0.lean ====
section
/-! SUPPORT. Tests. Expected results are the spec's own: the vectors of 95_test_vectors.md (their ids stand in the
docstrings) and the worked words of 30_encoding.md. Last, for every statement with hypotheses, a state and operands that
meet them. -/

namespace Sys2Proof.Tests

open Sys2Proof.Machine Sys2Proof.Safety

/-! ## Small states, as 95_test_vectors.md sets them up -/

/-- Registers the harness writes. -/
def put (rs : List (RegIdx × Word)) (s : State) : State := rs.foldl (fun t p => writeReg t p.1 p.2) s

/-- Bytes the host stores. -/
def hold (m : List (Word × Byte)) (s : State) : State := m.foldl (fun t p => placeByte p.1 p.2 t) s

/-- After `initialize(A)` with REG_INIT 0x000FFFFF, with these registers and bytes, and the word at `A`. -/
def before (A : Word) (w : Nat) (rs : List (RegIdx × Word)) (m : List (Word × Byte)) : State :=
  (hold m (put rs (initializeCore 0x000FFFFF#32 A State.reset))).withFetchWord 32 w

/-- The next state of a step. -/
def stepped (s : State) : State :=
  match step s with
  | .next t => t
  | .fault r => nomatch r
  | .refused _ => s

/-- One step from there. -/
def after (A : Word) (w : Nat) (rs : List (RegIdx × Word)) (m : List (Word × Byte)) : State := stepped (before A w rs m)

/-! ## Well-formedness: an odd offset is refused -/

theorem test_wf_beq_odd : (Instr.beq 1#5 2#5 3#13).wf = false ∧ (Instr.beq 1#5 2#5 (-4096)).wf = true := by decide
theorem test_wf_bne_odd : (Instr.bne 1#5 2#5 3#13).wf = false ∧ (Instr.bne 1#5 2#5 (-4096)).wf = true := by decide
theorem test_wf_blt_odd : (Instr.blt 1#5 2#5 3#13).wf = false ∧ (Instr.blt 1#5 2#5 (-4096)).wf = true := by decide
theorem test_wf_bge_odd : (Instr.bge 1#5 2#5 3#13).wf = false ∧ (Instr.bge 1#5 2#5 (-4096)).wf = true := by decide
theorem test_wf_bltu_odd : (Instr.bltu 1#5 2#5 3#13).wf = false ∧ (Instr.bltu 1#5 2#5 (-4096)).wf = true := by decide
theorem test_wf_bgeu_odd : (Instr.bgeu 1#5 2#5 3#13).wf = false ∧ (Instr.bgeu 1#5 2#5 (-4096)).wf = true := by decide
theorem test_wf_jal_odd : (Instr.jal 1#5 1048575#21).wf = false ∧ (Instr.jal 1#5 1048574#21).wf = true := by decide

/-! ## Decoding: each word written out field by field from 30_encoding.md R73 to R79 and R87 -/

/-- VU1. -/
theorem test_decode_lui : decodeWord 0b00010010001101000101_00101_0110111#32 = .ok (.lui 5#5 0x12345#20) := by decide
/-- VU5. -/
theorem test_decode_auipc : decodeWord 0b11111111111111111111_00101_0010111#32 = .ok (.auipc 5#5 0xFFFFF#20) := by decide
/-- VJ3. -/
theorem test_decode_jal : decodeWord 0b0_1111111111_1_11111111_00001_1101111#32 = .ok (.jal 1#5 1048574#21) := by decide
/-- VJ6. -/
theorem test_decode_jalr : decodeWord 0b000000000011_00010_000_00001_1100111#32 = .ok (.jalr 1#5 2#5 3#12) := by decide
/-- W4. -/
theorem test_decode_beq : decodeWord 0b1_111111_00010_00001_000_1110_1_1100011#32 = .ok (.beq 1#5 2#5 (-4)) := by decide
/-- VB34. -/
theorem test_decode_bne : decodeWord 0b1_000000_00010_00001_001_0000_0_1100011#32 = .ok (.bne 1#5 2#5 (-4096)) := by decide
/-- VB11. -/
theorem test_decode_blt : decodeWord 0b0_000000_00010_00001_100_0100_0_1100011#32 = .ok (.blt 1#5 2#5 8#13) := by decide
/-- VB16. -/
theorem test_decode_bge : decodeWord 0b0_000000_00010_00001_101_0100_0_1100011#32 = .ok (.bge 1#5 2#5 8#13) := by decide
/-- VB21. -/
theorem test_decode_bltu : decodeWord 0b0_000000_00010_00001_110_0100_0_1100011#32 = .ok (.bltu 1#5 2#5 8#13) := by decide
/-- VB26. -/
theorem test_decode_bgeu : decodeWord 0b0_000000_00010_00001_111_0100_0_1100011#32 = .ok (.bgeu 1#5 2#5 8#13) := by decide
/-- VM3. -/
theorem test_decode_lb : decodeWord 0b000000000001_00110_000_00101_0000011#32 = .ok (.lb 5#5 6#5 1#12) := by decide
/-- VM5. -/
theorem test_decode_lh : decodeWord 0b000000000001_00110_001_00101_0000011#32 = .ok (.lh 5#5 6#5 1#12) := by decide
/-- VM10. -/
theorem test_decode_lw : decodeWord 0b111111111100_00110_010_00101_0000011#32 = .ok (.lw 5#5 6#5 (-4)) := by decide
/-- VM2. -/
theorem test_decode_lbu : decodeWord 0b000000000000_00110_100_00101_0000011#32 = .ok (.lbu 5#5 6#5 0#12) := by decide
/-- VM7. -/
theorem test_decode_lhu : decodeWord 0b000000000010_00110_101_00101_0000011#32 = .ok (.lhu 5#5 6#5 2#12) := by decide
/-- VM14. -/
theorem test_decode_sb : decodeWord 0b0000000_00111_00110_000_00100_0100011#32 = .ok (.sb 7#5 6#5 4#12) := by decide
/-- VM15. -/
theorem test_decode_sh : decodeWord 0b0000000_00111_00110_001_00100_0100011#32 = .ok (.sh 7#5 6#5 4#12) := by decide
/-- VM19. -/
theorem test_decode_sw : decodeWord 0b0111111_00111_00110_010_11111_0100011#32 = .ok (.sw 7#5 6#5 2047#12) := by decide
/-- VI4. -/
theorem test_decode_addi : decodeWord 0b111111111111_00010_000_00001_0010011#32 = .ok (.addi 1#5 2#5 (-1)) := by decide
/-- VI9. -/
theorem test_decode_slti : decodeWord 0b100000000000_00010_010_00001_0010011#32 = .ok (.slti 1#5 2#5 (-2048)) := by decide
/-- VI12. -/
theorem test_decode_sltiu : decodeWord 0b000000000001_00010_011_00001_0010011#32 = .ok (.sltiu 1#5 2#5 1#12) := by decide
/-- VI15. -/
theorem test_decode_xori : decodeWord 0b011111111111_00010_100_00001_0010011#32 = .ok (.xori 1#5 2#5 0x7FF#12) := by decide
/-- VI16. -/
theorem test_decode_ori : decodeWord 0b000011110000_00010_110_00001_0010011#32 = .ok (.ori 1#5 2#5 0x0F0#12) := by decide
/-- VI18. -/
theorem test_decode_andi : decodeWord 0b111100000000_00010_111_00001_0010011#32 = .ok (.andi 1#5 2#5 (-256)) := by decide
/-- VI20. -/
theorem test_decode_slli : decodeWord 0b0000000_11111_00010_001_00001_0010011#32 = .ok (.slli 1#5 2#5 31#5) := by decide
/-- VI22. -/
theorem test_decode_srli : decodeWord 0b0000000_00100_00010_101_00001_0010011#32 = .ok (.srli 1#5 2#5 4#5) := by decide
/-- VI25. -/
theorem test_decode_srai : decodeWord 0b0100000_11111_00010_101_00001_0010011#32 = .ok (.srai 1#5 2#5 31#5) := by decide
/-- W3. -/
theorem test_decode_add : decodeWord 0b0000000_00111_00110_000_00101_0110011#32 = .ok (.add 5#5 6#5 7#5) := by decide
/-- VR3. -/
theorem test_decode_sub : decodeWord 0b0100000_00011_00010_000_00001_0110011#32 = .ok (.sub 1#5 2#5 3#5) := by decide
/-- VR6. -/
theorem test_decode_sll : decodeWord 0b0000000_00011_00010_001_00001_0110011#32 = .ok (.sll 1#5 2#5 3#5) := by decide
/-- VR9. -/
theorem test_decode_slt : decodeWord 0b0000000_00011_00010_010_00001_0110011#32 = .ok (.slt 1#5 2#5 3#5) := by decide
/-- VR12. -/
theorem test_decode_sltu : decodeWord 0b0000000_00011_00000_011_00001_0110011#32 = .ok (.sltu 1#5 0#5 3#5) := by decide
/-- VR13. -/
theorem test_decode_xor : decodeWord 0b0000000_00011_00010_100_00001_0110011#32 = .ok (.xor 1#5 2#5 3#5) := by decide
/-- VR14. -/
theorem test_decode_srl : decodeWord 0b0000000_00011_00010_101_00001_0110011#32 = .ok (.srl 1#5 2#5 3#5) := by decide
/-- VR15. -/
theorem test_decode_sra : decodeWord 0b0100000_00011_00010_101_00001_0110011#32 = .ok (.sra 1#5 2#5 3#5) := by decide
/-- VR17. -/
theorem test_decode_or : decodeWord 0b0000000_00011_00010_110_00001_0110011#32 = .ok (.or 1#5 2#5 3#5) := by decide
/-- VR18. -/
theorem test_decode_and : decodeWord 0b0000000_00011_00010_111_00001_0110011#32 = .ok (.and 1#5 2#5 3#5) := by decide
/-- VS3. -/
theorem test_decode_fence : decodeWord 0b10000011001100000000_00000_0001111#32 = .ok (.fence) := by decide
/-- VS4. -/
theorem test_decode_ecall : decodeWord 0b0000000000000000000000000_1110011#32 = .ok (.ecall) := by decide
/-- VS5. -/
theorem test_decode_ebreak : decodeWord 0b0000000000010000000000000_1110011#32 = .ok (.ebreak) := by decide
/-- VD5. -/
theorem test_reject_compressed : decodeWord 0x00004501#32 = .error (.decodeFault 0x01#7) := by decide
/-- VD1. -/
theorem test_reject_zero : decodeWord 0x00000000#32 = .error (.decodeFault 0x00#7) := by decide
/-- VD2. -/
theorem test_reject_ones : decodeWord 0xFFFFFFFF#32 = .error (.decodeFault 0x7F#7) := by decide
/-- VD4. -/
theorem test_reject_amo : decodeWord 0x0000202F#32 = .error (.decodeFault 0x2F#7) := by decide
/-- VJ11. -/
theorem test_reject_jalr_001 : decodeWord 0x000110E7#32 = .error (.executionFault 0x67#7 0b001#3) := by decide
/-- VB35. -/
theorem test_reject_branch_010 : decodeWord 0x0020A463#32 = .error (.executionFault 0x63#7 0b010#3) := by decide
/-- VM21. -/
theorem test_reject_load_110 : decodeWord 0x00036283#32 = .error (.executionFault 0x03#7 0b110#3) := by decide
/-- VM22. -/
theorem test_reject_store_011 : decodeWord 0x00733023#32 = .error (.executionFault 0x23#7 0b011#3) := by decide
/-- The byte order of R53 and R101: the word 0x007302B3 stands in memory as B3 02 73 00. -/
theorem test_decode_bytes : decodeBytes 0xB3#8 0x02#8 0x73#8 0x00#8 = .ok (.add 5#5 6#5 7#5) := by decide
/-- The row's word with zero operands, as the host asks for it. -/
theorem test_decode_table_word : decodeTableWord 32 0x40005033 = some (.sra 0#5 0#5 0#5) := by decide
/-- W3: the register names. -/
theorem test_abi_names : (abiName 5#5, abiName 6#5, abiName 7#5) = ("t0", "t1", "t2") := by decide

/-! ## One step per instruction -/

/-- VU3. -/
theorem test_step_lui :
    let t := after 0x100#32 0x12345037 [] []
    t.pc = 0x104#32 ∧ readReg t 0#5 = 0#32 ∧ readReg t 5#5 = 0x000FFFFF#32 := by decide
/-- VU6. -/
theorem test_step_auipc :
    let t := after 0xFFFFF000#32 0x00001297 [] []
    t.pc = 0xFFFFF004#32 ∧ readReg t 5#5 = 0x00000000#32 ∧ isHalted t = false ∧ t.fault = .none := by decide
/-- VJ5. -/
theorem test_step_jal :
    let t := after 0#32 0x800000EF [] []
    t.pc = 0xFFF00000#32 ∧ readReg t 1#5 = 0x00000004#32 ∧ isHalted t = false ∧ t.fault = .none := by decide
/-- VJ7. -/
theorem test_step_jalr :
    let t := after 0x100#32 0x000080E7 [(1#5, 0x00000300#32)] []
    t.pc = 0x00000300#32 ∧ readReg t 1#5 = 0x00000104#32 ∧ isHalted t = false ∧ t.fault = .none := by decide
/-- VB33. -/
theorem test_step_beq :
    let t := after 0x100#32 0x80000063 [] []
    t.pc = 0xFFFFF100#32 := by decide
/-- VB6. -/
theorem test_step_bne :
    let t := after 0x100#32 0x00209463 [(1#5, 0x00000001#32), (2#5, 0x00000001#32)] []
    t.pc = 0x104#32 := by decide
/-- VB12. -/
theorem test_step_blt :
    let t := after 0x100#32 0x0020C463 [(1#5, 0xFFFFFFFF#32), (2#5, 0x00000001#32)] []
    t.pc = 0x108#32 := by decide
/-- VB19. -/
theorem test_step_bge :
    let t := after 0x100#32 0x0020D463 [(1#5, 0x80000000#32), (2#5, 0x7FFFFFFF#32)] []
    t.pc = 0x104#32 := by decide
/-- VB22. -/
theorem test_step_bltu :
    let t := after 0x100#32 0x0020E463 [(1#5, 0xFFFFFFFF#32), (2#5, 0x00000001#32)] []
    t.pc = 0x104#32 := by decide
/-- VB30. -/
theorem test_step_bgeu :
    let t := after 0x100#32 0x0020F463 [(1#5, 0x00000000#32), (2#5, 0x00000000#32)] []
    t.pc = 0x108#32 := by decide
/-- VM1. -/
theorem test_step_lb :
    let t := after 0x100#32 0x00030283 [(6#5, 0x00000200#32)] [(0x200#32, 0x80#8), (0x201#32, 0x7F#8), (0x202#32, 0xFF#8), (0x203#32, 0x01#8)]
    t.pc = 0x00000104#32 ∧ readReg t 5#5 = 0xFFFFFF80#32 ∧ isHalted t = false ∧ t.fault = .none ∧ t.portLog.head? = some (.read 0x200#32 0x80#8) := by decide
/-- VM5. -/
theorem test_step_lh :
    let t := after 0x100#32 0x00131283 [(6#5, 0x00000200#32)] [(0x200#32, 0x80#8), (0x201#32, 0x7F#8), (0x202#32, 0xFF#8), (0x203#32, 0x01#8)]
    t.pc = 0x00000104#32 ∧ readReg t 5#5 = 0xFFFFFF7F#32 ∧ isHalted t = false ∧ t.fault = .none := by decide
/-- VM10. -/
theorem test_step_lw :
    let t := after 0x100#32 0xFFC32283 [(6#5, 0x00000002#32)] [(0#32, 0x33#8), (1#32, 0x44#8), (0xFFFFFFFE#32, 0x11#8), (0xFFFFFFFF#32, 0x22#8)]
    t.pc = 0x00000104#32 ∧ readReg t 5#5 = 0x44332211#32 ∧ isHalted t = false ∧ t.fault = .none := by decide
/-- VM2. -/
theorem test_step_lbu :
    let t := after 0x100#32 0x00034283 [(6#5, 0x00000200#32)] [(0x200#32, 0x80#8), (0x201#32, 0x7F#8), (0x202#32, 0xFF#8), (0x203#32, 0x01#8)]
    t.pc = 0x00000104#32 ∧ readReg t 5#5 = 0x00000080#32 ∧ isHalted t = false ∧ t.fault = .none := by decide
/-- VM6. -/
theorem test_step_lhu :
    let t := after 0x100#32 0x00135283 [(6#5, 0x00000200#32)] [(0x200#32, 0x80#8), (0x201#32, 0x7F#8), (0x202#32, 0xFF#8), (0x203#32, 0x01#8)]
    t.pc = 0x00000104#32 ∧ readReg t 5#5 = 0x0000FF7F#32 ∧ isHalted t = false ∧ t.fault = .none := by decide
/-- VM14. -/
theorem test_step_sb :
    let t := after 0x100#32 0x00730223 [(6#5, 0x00000200#32), (7#5, 0x12345678#32)] [(0x203#32, 0x01#8), (0x205#32, 0x02#8)]
    t.pc = 0x104#32 ∧ ramByte t 0x203#32 = 0x01#8 ∧ ramByte t 0x204#32 = 0x78#8 ∧ ramByte t 0x205#32 = 0x02#8 := by decide
/-- VM18. -/
theorem test_step_sh :
    let t := after 0x100#32 0x00031023 [(6#5, 0xFFFFFFFF#32)] [(0#32, 0x01#8), (1#32, 0x02#8), (0xFFFFFFFF#32, 0x03#8)]
    ramByte t 0xFFFFFFFF#32 = 0#8 ∧ ramByte t 0#32 = 0#8 ∧ ramByte t 1#32 = 0x02#8 := by decide
/-- VM17. -/
theorem test_step_sw :
    let t := after 0x100#32 0xFE732FA3 [(6#5, 0x00000200#32), (7#5, 0xDEADBEEF#32)] []
    t.pc = 0x104#32 ∧ t.portLog.take 4 = [.write 0x202#32 0xDE#8, .write 0x201#32 0xAD#8, .write 0x200#32 0xBE#8, .write 0x1FF#32 0xEF#8] ∧
        ramByte t 0x200#32 = 0xBE#8 := by decide
/-- VI2. -/
theorem test_step_addi :
    let t := after 0x100#32 0x80000093 [] []
    t.pc = 0x00000104#32 ∧ readReg t 1#5 = 0xFFFFF800#32 ∧ isHalted t = false ∧ t.fault = .none := by decide
/-- VI8. -/
theorem test_step_slti :
    let t := after 0x100#32 0x00012093 [(2#5, 0xFFFFFFFF#32)] []
    t.pc = 0x00000104#32 ∧ readReg t 1#5 = 0x00000001#32 ∧ isHalted t = false ∧ t.fault = .none := by decide
/-- VI10. -/
theorem test_step_sltiu :
    let t := after 0x100#32 0xFFF13093 [(2#5, 0xFFFFFFFE#32)] []
    t.pc = 0x00000104#32 ∧ readReg t 1#5 = 0x00000001#32 ∧ isHalted t = false ∧ t.fault = .none := by decide
/-- VI15. -/
theorem test_step_xori :
    let t := after 0x100#32 0x7FF14093 [(2#5, 0xFFFFFFFF#32)] []
    t.pc = 0x00000104#32 ∧ readReg t 1#5 = 0xFFFFF800#32 ∧ isHalted t = false ∧ t.fault = .none := by decide
/-- VI17. -/
theorem test_step_ori :
    let t := after 0x100#32 0x80016093 [(2#5, 0x00000000#32)] []
    t.pc = 0x00000104#32 ∧ readReg t 1#5 = 0xFFFFF800#32 ∧ isHalted t = false ∧ t.fault = .none := by decide
/-- VI18. -/
theorem test_step_andi :
    let t := after 0x100#32 0xF0017093 [(2#5, 0x12345678#32)] []
    t.pc = 0x00000104#32 ∧ readReg t 1#5 = 0x12345600#32 ∧ isHalted t = false ∧ t.fault = .none := by decide
/-- VI27. -/
theorem test_step_slli :
    let t := after 0x100#32 0x02111093 [(2#5, 0x00000003#32)] []
    t.pc = 0x00000104#32 ∧ readReg t 1#5 = 0x00000006#32 ∧ isHalted t = false ∧ t.fault = .none := by decide
/-- VI28. -/
theorem test_step_srli :
    let t := after 0x100#32 0x80415093 [(2#5, 0x80000000#32)] []
    t.pc = 0x00000104#32 ∧ readReg t 1#5 = 0x08000000#32 ∧ isHalted t = false ∧ t.fault = .none := by decide
/-- VI24. -/
theorem test_step_srai :
    let t := after 0x100#32 0x40415093 [(2#5, 0x80000000#32)] []
    t.pc = 0x00000104#32 ∧ readReg t 1#5 = 0xF8000000#32 ∧ isHalted t = false ∧ t.fault = .none := by decide
/-- VR20. -/
theorem test_step_add :
    let t := after 0x100#32 0x023100B3 [(2#5, 0x00000006#32), (3#5, 0x00000007#32)] []
    t.pc = 0x00000104#32 ∧ readReg t 1#5 = 0x0000000D#32 ∧ isHalted t = false ∧ t.fault = .none := by decide
/-- VR3. -/
theorem test_step_sub :
    let t := after 0x100#32 0x403100B3 [(2#5, 0x00000000#32), (3#5, 0x00000001#32)] []
    t.pc = 0x00000104#32 ∧ readReg t 1#5 = 0xFFFFFFFF#32 ∧ isHalted t = false ∧ t.fault = .none := by decide
/-- VR7. -/
theorem test_step_sll :
    let t := after 0x100#32 0x003110B3 [(2#5, 0x00000001#32), (3#5, 0x00000021#32)] []
    t.pc = 0x00000104#32 ∧ readReg t 1#5 = 0x00000002#32 ∧ isHalted t = false ∧ t.fault = .none := by decide
/-- VR9. -/
theorem test_step_slt :
    let t := after 0x100#32 0x003120B3 [(2#5, 0xFFFFFFFF#32), (3#5, 0x00000001#32)] []
    t.pc = 0x00000104#32 ∧ readReg t 1#5 = 0x00000001#32 ∧ isHalted t = false ∧ t.fault = .none := by decide
/-- VR11. -/
theorem test_step_sltu :
    let t := after 0x100#32 0x003130B3 [(2#5, 0xFFFFFFFF#32), (3#5, 0x00000001#32)] []
    t.pc = 0x00000104#32 ∧ readReg t 1#5 = 0x00000000#32 ∧ isHalted t = false ∧ t.fault = .none := by decide
/-- VR13. -/
theorem test_step_xor :
    let t := after 0x100#32 0x003140B3 [(2#5, 0xFF00FF00#32), (3#5, 0x0FF00FF0#32)] []
    t.pc = 0x00000104#32 ∧ readReg t 1#5 = 0xF0F0F0F0#32 ∧ isHalted t = false ∧ t.fault = .none := by decide
/-- VR14. -/
theorem test_step_srl :
    let t := after 0x100#32 0x003150B3 [(2#5, 0x80000000#32), (3#5, 0x00000024#32)] []
    t.pc = 0x00000104#32 ∧ readReg t 1#5 = 0x08000000#32 ∧ isHalted t = false ∧ t.fault = .none := by decide
/-- VR15. -/
theorem test_step_sra :
    let t := after 0x100#32 0x403150B3 [(2#5, 0x80000000#32), (3#5, 0x00000024#32)] []
    t.pc = 0x00000104#32 ∧ readReg t 1#5 = 0xF8000000#32 ∧ isHalted t = false ∧ t.fault = .none := by decide
/-- VR17. -/
theorem test_step_or :
    let t := after 0x100#32 0x003160B3 [(2#5, 0x000000F0#32), (3#5, 0x0000000F#32)] []
    t.pc = 0x00000104#32 ∧ readReg t 1#5 = 0x000000FF#32 ∧ isHalted t = false ∧ t.fault = .none := by decide
/-- VR18. -/
theorem test_step_and :
    let t := after 0x100#32 0x003170B3 [(2#5, 0xFF00FF00#32), (3#5, 0x0FF00FF0#32)] []
    t.pc = 0x00000104#32 ∧ readReg t 1#5 = 0x0F000F00#32 ∧ isHalted t = false ∧ t.fault = .none := by decide
/-- VS2. -/
theorem test_step_fence :
    let t := after 0x100#32 0x0000100F [] []
    t.pc = 0x00000104#32 ∧ readReg t 1#5 = 0x000FFFFF#32 ∧ isHalted t = false ∧ t.fault = .none ∧ t.portLog.length = 4 := by decide
/-- VS6. -/
theorem test_step_ecall :
    let t := after 0x100#32 0xC0002573 [(10#5, 0x00000055#32)] []
    t.pc = 0x104#32 ∧ isHalted t = true ∧ t.fault = .none ∧ readReg t 10#5 = 0x55#32 := by decide
/-- VS5. -/
theorem test_step_ebreak :
    let t := after 0x100#32 0x00100073 [] []
    t.pc = 0x104#32 ∧ isHalted t = true ∧ t.fault = .none := by decide

/-! ## Faults, the stopped core, reset -/

/-- VD1: no register changed, no data access, the code 0b01, and the core is not halted. -/
theorem test_step_decode_fault :
    let t := after 0x100#32 0x00000000 [] []
    t.pc = 0x104#32 ∧ faultOutput t = 0b01#2 ∧ isHalted t = false ∧ readReg t 1#5 = 0x000FFFFF#32 ∧ t.portLog.length = 4 := by decide
/-- VM23: an unmapped STORE key issues no write; the code 0b10. -/
theorem test_step_execution_fault :
    let t := after 0x100#32 0x00734023 [(6#5, 0x200#32), (7#5, 1#32)] []
    t.pc = 0x104#32 ∧ faultOutput t = 0b10#2 ∧ isHalted t = false ∧ t.portLog.length = 4 ∧ ramByte t 0x200#32 = 0#8 := by decide
/-- W8: the step after a halt is a no-op. -/
theorem test_step_after_halt :
    let t := after 0x100#32 0x00000073 [] []
    stepReport (before 0x100#32 0x00000073 [] []) = .halted ∧ stepReport t = .noop ∧ stepped t = t := by decide
/-- R34: the reset state. -/
theorem test_reset :
    readReg State.reset 0#5 = 0#32 ∧ readReg State.reset 31#5 = Config.regInit ∧ State.reset.pc = Config.resetAddress ∧
      isHalted State.reset = false ∧ faultOutput State.reset = 0b00#2 := by decide

/-! ## Witnesses: each statement's hypotheses can be met -/

/-- A running core whose next instruction, at 0x100, is a word store over its own four bytes. -/
def demo : State := before 0x100#32 0xFE732FA3 [(6#5, 0x101#32), (7#5, 0xDEADBEEF#32)] []

/-- A halted core, and two faulted ones. -/
def haltedDemo : State := after 0x100#32 0x00000073 [] []
def decodeFaulted : State := after 0x100#32 0x00000000 [] []
def execFaulted : State := after 0x100#32 0x00002063 [] []

/-- The test that a step answers a next state. -/
def isNext (o : Host.Outcome State Fault Refusal) : Bool :=
  match o with
  | .next _ => true
  | .fault _ => false
  | .refused _ => false

theorem step_stepped {s : State} (h : isNext (step s) = true) : step s = .next (stepped s) := by
  unfold stepped
  cases hs : step s with
  | next t => rfl
  | fault r => exact nomatch r
  | refused r => rw [hs] at h; cases h

theorem witness_EveryStepKeepsTheInvariant : MachineInv demo ∧ step demo = .next (stepped demo) :=
  ⟨⟨by decide, by decide, by decide⟩, step_stepped (by decide)⟩

/-- Two bytes across the top of memory: the last byte of the image, and the first address after it. -/
theorem witness_LoadedImageIsReadBack :
    Memory.wf demo.mem = true ∧ [0x11#8, 0x22#8].length ≤ 2 ^ 32 ∧ 1 < [0x11#8, 0x22#8].length ∧
      [0x11#8, 0x22#8].length ≤ (1#32 - 0xFFFFFFFF#32).toNat := by decide

/-- The first address after the placed word. -/
theorem witness_PlacedWordRunsNext :
    Memory.wf haltedDemo.mem = true ∧ decodeTableWord 32 0x13 = some (.addi 0#5 0#5 0#12) ∧
      4 ≤ (haltedDemo.pc + 4#32 - haltedDemo.pc).toNat := by decide

theorem witness_StepRunsTheDecodedInstruction_decoded :
    Running demo ∧ decodeWord (fetchWord demo) = .ok (.sw 7#5 6#5 (-1)) := by unfold Running; decide
theorem witness_StepRunsTheDecodedInstruction_refused :
    Running (before 0#32 0 [] []) ∧ decodeWord (fetchWord (before 0#32 0 [] [])) = .error (.decodeFault 0#7) := by
  unfold Running; decide

theorem witness_StoppedStepChangesNothing :
    haltedDemo.jammed = true ∧ decodeFaulted.fault ≠ .none ∧ execFaulted.fault ≠ .none := by decide

theorem witness_UnknownOpcodeTakesTheDecodeFault :
    Running State.reset ∧ (fetchWord State.reset).extractLsb' 0 7 ∉ shapeOpcodes := by unfold Running; decide

/-- One key of each of the four opcodes. -/
theorem witness_UnmappedKeyTakesTheExecutionFault :
    Running (before 0#32 0x00007067 [] []) ∧ UnmappedKey (fetchWord (before 0#32 0x00007067 [] [])) ∧
      UnmappedKey (fetchWord (before 0#32 0x00003063 [] [])) ∧ UnmappedKey (fetchWord (before 0#32 0x00007003 [] [])) ∧
      UnmappedKey (fetchWord (before 0#32 0x00003023 [] [])) := by unfold Running UnmappedKey; decide

theorem witness_EveryStepEndsWithAtMostOneEvent : Running State.reset ∧ Running demo := by unfold Running; decide

/-- Each of the five outcomes occurs. -/
theorem witness_StepReportsItsOutcome :
    step demo = .next (stepped demo) ∧ stepReport demo = .ok ∧ stepReport haltedDemo = .noop ∧
      stepReport (before 0x100#32 0x00000073 [] []) = .halted ∧
      stepReport (before 0x100#32 0x0000000B [] []) = .decodeFault 0x0B#7 ∧
      stepReport (before 0x100#32 0x00002063 [] []) = .executionFault 0x63#7 0b010#3 :=
  ⟨step_stepped (by decide), by decide⟩

theorem witness_SystemWordsHaltAndNoOtherWordDoes :
    Running (before 0#32 0xFFFFFFF3 [] []) ∧ (fetchWord (before 0#32 0xFFFFFFF3 [] [])).extractLsb' 0 7 = 0x73#7 ∧
      Running demo ∧ (fetchWord demo).extractLsb' 0 7 ≠ 0x73#7 := by unfold Running; decide

theorem witness_OnlyStoreWordsChangeMemory :
    step State.reset = .next (stepped State.reset) ∧ (fetchWord State.reset).extractLsb' 0 7 ≠ 0x23#7 :=
  ⟨step_stepped (by decide), by decide⟩

theorem witness_StepWritesAtMostItsDestination :
    step demo = .next (stepped demo) ∧ (fetchWord demo).extractLsb' 0 7 ∈ [0x63#7, 0x23#7, 0x0F#7, 0x73#7] :=
  ⟨step_stepped (by decide), by decide⟩

theorem witness_StepIssuesExactlyTheListedPortOperations :
    step demo = .next (stepped demo) ∧ step haltedDemo = .next (stepped haltedDemo) ∧ Running demo ∧ ¬ Running haltedDemo :=
  ⟨step_stepped (by decide), step_stepped (by decide), by unfold Running; decide⟩

/-- The highest even address. -/
theorem witness_EvenPcStaysEven :
    let s := initializeCore 0#32 0xFFFFFFFE#32 State.reset
    s.pc.toNat % 2 = 0 ∧ step s = .next (stepped s) :=
  ⟨by decide, step_stepped (by decide)⟩

theorem witness_NextFetchSeesTheStore :
    Memory.wf demo.mem = true ∧ effAddr demo 6#5 (-1) = demo.pc ∧ Storage demo demo.pc ∧ Storage demo (demo.pc + 1#32) ∧
      Storage demo (demo.pc + 2#32) ∧ Storage demo (demo.pc + 3#32) := by unfold Storage; decide

/-- The last byte and the last half of the stored word, and the word itself, from another base. -/
theorem witness_LoadAfterStoreReturnsTheValue :
    let t := memWrite4 (effAddr demo 6#5 (-1)) (readReg demo 7#5) demo
    Memory.wf demo.mem = true ∧ (5#5 : RegIdx) ≠ 0#5 ∧ (∀ k < 4, Storage demo (effAddr demo 6#5 (-1) + BitVec.ofNat 32 k)) ∧
      effAddr t 0#5 0x100#12 = effAddr demo 6#5 (-1) ∧
      effAddr t 0#5 0x103#12 = effAddr demo 6#5 (-1) + BitVec.ofNat 32 3 ∧
      effAddr t 6#5 1#12 = effAddr demo 6#5 (-1) + BitVec.ofNat 32 2 := by unfold Storage; decide

theorem witness_HostRamStepIgnoresTheHistory : HostRam demo := by unfold HostRam; decide

theorem witness_DecodeInvertsEncode :
    (Instr.jal 1#5 (-1048576)).wf = true ∧ (Instr.bgeu 31#5 0#5 4094#13).wf = true ∧ Instr.ebreak.wf = true := by decide

theorem witness_DecodedInstructionIsWellFormed : decodeWord 0x80208063#32 = .ok (.beq 1#5 2#5 (-4096)) := by decide

theorem witness_DecodeFaultExactlyOutsideTheShapeTable :
    decodeWord 0xFFFFFFFF#32 = .error (.decodeFault 0x7F#7) := by decide

theorem witness_ExecutionFaultExactlyOnTheUnmappedKeys :
    decodeWord 0x00007023#32 = .error (.executionFault 0x23#7 7#3) := by decide

theorem witness_DecodedWordLiesInItsTableRow : decodeWord 0xC0315033#32 = .ok (.sra 0#5 2#5 3#5) := by decide

theorem witness_UnexaminedBitsNeverMatter_op :
    (0xC03100B3#32 : Word).extractLsb' 0 7 = 0x33#7 ∧ SameBits 0 25 0xC03100B3#32 0x403100B3#32 ∧
      SameBits 30 1 0xC03100B3#32 0x403100B3#32 := by unfold SameBits; decide
theorem witness_UnexaminedBitsNeverMatter_opImm :
    KeyIs 0x02111093#32 0x13#7 1#3 ∧ SameBits 0 25 0x02111093#32 0xFE111093#32 ∧
      KeyIs 0x80415093#32 0x13#7 5#3 ∧ SameBits 0 25 0x80415093#32 0x00415093#32 ∧
      SameBits 30 1 0x80415093#32 0x00415093#32 := by unfold KeyIs SameBits; decide
theorem witness_UnexaminedBitsNeverMatter_opcodeOnly :
    (0xFFFFFF8F#32 : Word).extractLsb' 0 7 = 0x0F#7 ∧ (0xFFFFFFF3#32 : Word).extractLsb' 0 7 = 0x73#7 := by decide

theorem witness_MultiplyDivideWordsRunAsBaseOperations :
    ∀ k : BitVec 3, let w : Word := 0b0000001#7 ++ 3#5 ++ 2#5 ++ k ++ 1#5 ++ 0x33#7
      w.extractLsb' 0 7 = 0x33#7 ∧ w.extractLsb' 25 7 = 0b0000001#7 ∧ w.extractLsb' 12 3 = k := by decide

/-! The post-fetch state, whose `pc` is A + 4, with A at the top of memory. -/

theorem witness_AuipcAddsTheUpperImmediateToItsAddress :
    (0x00001297#32 : Word).extractLsb' 0 7 = 0x17#7 ∧
      (afterFetch (before 0xFFFFFFFC#32 0x00001297 [] [])).pc = 0xFFFFFFFC#32 + 4#32 := by decide
theorem witness_LuiLoadsTheUpperImmediate : (0x123452B7#32 : Word).extractLsb' 0 7 = 0x37#7 := by decide
theorem witness_JalLinksAndJumps :
    (0x800000EF#32 : Word).extractLsb' 0 7 = 0x6F#7 ∧
      (afterFetch (before 0#32 0x800000EF [] [])).pc = 0#32 + 4#32 := by decide
theorem witness_JalrLinksAndJumpsToTheEvenSum :
    KeyIs 0x003100E7#32 0x67#7 0#3 ∧ KeyIs 0x000110E7#32 0x67#7 1#3 ∧ (1#3 : BitVec 3) ≠ 0#3 ∧
      (afterFetch (before 0xFFFFFFFF#32 0x003100E7 [] [])).pc = 0xFFFFFFFF#32 + 4#32 := by unfold KeyIs; decide

theorem witness_EqualityBranches :
    KeyIs 0xFE208EE3#32 0x63#7 0#3 ∧ KeyIs 0x80209063#32 0x63#7 1#3 ∧
      (afterFetch (before 0x100#32 0xFE208EE3 [] [])).pc = 0x100#32 + 4#32 := by unfold KeyIs; decide
theorem witness_SignedBranches :
    KeyIs 0x0020C463#32 0x63#7 4#3 ∧ KeyIs 0x0020D463#32 0x63#7 5#3 ∧
      (afterFetch (before 0x100#32 0x0020C463 [] [])).pc = 0x100#32 + 4#32 := by unfold KeyIs; decide
theorem witness_UnsignedBranches :
    KeyIs 0x0020E463#32 0x63#7 6#3 ∧ KeyIs 0x0020F463#32 0x63#7 7#3 ∧
      (afterFetch (before 0x100#32 0x0020E463 [] [])).pc = 0x100#32 + 4#32 := by unfold KeyIs; decide

theorem witness_SignedLoads : KeyIs 0x00130283#32 0x03#7 0#3 ∧ KeyIs 0x00131283#32 0x03#7 1#3 := by unfold KeyIs; decide
theorem witness_WordAndUnsignedLoads :
    KeyIs 0xFFC32283#32 0x03#7 2#3 ∧ KeyIs 0x00034283#32 0x03#7 4#3 ∧ KeyIs 0x00235283#32 0x03#7 5#3 := by
  unfold KeyIs; decide
theorem witness_StoresWriteTheLowBytes :
    KeyIs 0x00730223#32 0x23#7 0#3 ∧ KeyIs 0x00731223#32 0x23#7 1#3 ∧ KeyIs 0x7E732FA3#32 0x23#7 2#3 ∧
      Memory.wf demo.mem = true := by unfold KeyIs; decide
/-- Inside the stored bytes: the last of four, across the top of memory, and the first address after them. -/
theorem witness_StoresWriteTheLowBytes_bytes :
    storedByte 4 0xFFFFFFFE#32 0xDEADBEEF#32 1#32 = some 0xDE#8 ∧ Storage demo 1#32 ∧
      storedByte 4 0xFFFFFFFE#32 0xDEADBEEF#32 2#32 = none ∧
      ¬ Storage (demo.setOracleRegions [⟨0#32, 1⟩]) 0#32 := by unfold Storage; decide

theorem witness_AddiAddsTheSignExtendedImmediate : KeyIs 0xFFF10093#32 0x13#7 0#3 := by unfold KeyIs; decide
theorem witness_SetLessThanImmediate : KeyIs 0x80012093#32 0x13#7 2#3 ∧ KeyIs 0x00113093#32 0x13#7 3#3 := by
  unfold KeyIs; decide
theorem witness_LogicImmediate :
    KeyIs 0x7FF14093#32 0x13#7 4#3 ∧ KeyIs 0x0F016093#32 0x13#7 6#3 ∧ KeyIs 0xF0017093#32 0x13#7 7#3 := by
  unfold KeyIs; decide
theorem witness_ShiftImmediate :
    KeyIs 0x02111093#32 0x13#7 1#3 ∧ KeyIs 0x80415093#32 0x13#7 5#3 ∧ (0x80415093#32 : Word).getLsbD 30 = false ∧
      KeyIs 0x40415093#32 0x13#7 5#3 ∧ (0x40415093#32 : Word).getLsbD 30 = true := by unfold KeyIs; decide

theorem witness_AddAndSubtractWrap :
    KeyIs 0x023100B3#32 0x33#7 0#3 ∧ (0x023100B3#32 : Word).getLsbD 30 = false ∧
      KeyIs 0xC03100B3#32 0x33#7 0#3 ∧ (0xC03100B3#32 : Word).getLsbD 30 = true := by unfold KeyIs; decide
theorem witness_SetLessThanRegister : KeyIs 0x003120B3#32 0x33#7 2#3 ∧ KeyIs 0x003030B3#32 0x33#7 3#3 := by
  unfold KeyIs; decide
theorem witness_LogicRegister :
    KeyIs 0x003140B3#32 0x33#7 4#3 ∧ KeyIs 0x003160B3#32 0x33#7 6#3 ∧ KeyIs 0x003170B3#32 0x33#7 7#3 := by
  unfold KeyIs; decide
theorem witness_ShiftRegister :
    KeyIs 0x003110B3#32 0x33#7 1#3 ∧ KeyIs 0x003150B3#32 0x33#7 5#3 ∧ (0x003150B3#32 : Word).getLsbD 30 = false ∧
      KeyIs 0x403150B3#32 0x33#7 5#3 ∧ (0x403150B3#32 : Word).getLsbD 30 = true := by unfold KeyIs; decide

theorem witness_FenceDoesNothing : (0x0000100F#32 : Word).extractLsb' 0 7 = 0x0F#7 := by decide
theorem witness_EcallAndEbreakHalt : (0xC0002573#32 : Word).extractLsb' 0 7 = 0x73#7 := by decide


end Sys2Proof.Tests
end

/-! SUPPORT. What a step can do, said once: the shapes of the next state that an instruction reaches from the post-fetch
state (40_step.md R105), each under its opcodes, and the three branches of `step` (R108). -/

namespace Sys2Proof.Machine

open Sys2Proof.Safety

/-- The states that an instruction decoded from `w` can reach from the post-fetch state `s`. A branch that is not taken
is the jump to the `pc` it stands at. -/
inductive ExecEffect (w : Word) (s : State) : State → Prop
  | alu (v : Word) (op : opcodeOf w ∈ [0x37#7, 0x17#7, 0x13#7, 0x33#7]) : ExecEffect w s (writeReg s (rdOf w) v)
  | jump (target : Word) (op : opcodeOf w ∈ [0x6F#7, 0x67#7]) :
      ExecEffect w s ((writeReg s (rdOf w) (linkAddr s)).setPc target)
  | branch (target : Word) (op : opcodeOf w = 0x63#7) : ExecEffect w s (s.setPc target)
  | load (log : List PortOp) (v : Word) (op : opcodeOf w = 0x03#7) :
      ExecEffect w s (writeReg (s.setPortLog log) (rdOf w) v)
  | storeByte (op : opcodeOf w = 0x23#7) :
      ExecEffect w s (memWrite1 (effAddr s (rs1Of w) (immSOf w)) (readReg s (rs2Of w)) s)
  | storeHalf (op : opcodeOf w = 0x23#7) :
      ExecEffect w s (memWrite2 (effAddr s (rs1Of w) (immSOf w)) (readReg s (rs2Of w)) s)
  | storeWord (op : opcodeOf w = 0x23#7) :
      ExecEffect w s (memWrite4 (effAddr s (rs1Of w) (immSOf w)) (readReg s (rs2Of w)) s)
  | fence (op : opcodeOf w = 0x0F#7) : ExecEffect w s s
  | halt (op : opcodeOf w = 0x73#7) : ExecEffect w s (halt s)

theorem branchIf_eq_setPc (cond : Bool) (off : BitVec 13) (s : State) :
    ∃ target, branchIf cond off s = .next (s.setPc target) := by
  cases cond
  · exact ⟨s.pc, rfl⟩
  · exact ⟨branchTarget s off, rfl⟩

/-- Every instruction answers a next state, of the shape that belongs to the opcode of its word. -/
theorem exec_execEffect {w : Word} {i : Instr} (hd : DecodedFrom w i) (s : State) :
    ∃ t, exec i s = .next t ∧ ExecEffect w s t := by
  cases i with
  | lui | auipc =>
    obtain ⟨ho, rfl, -⟩ := hd
    exact ⟨_, rfl, .alu _ (by simp [ho])⟩
  | jal =>
    obtain ⟨ho, rfl, -⟩ := hd
    exact ⟨_, rfl, .jump _ (by simp [ho])⟩
  | jalr =>
    obtain ⟨ho, -, rfl, -⟩ := hd
    exact ⟨_, rfl, .jump _ (by simp [ho])⟩
  | beq | bne | blt | bge | bltu | bgeu =>
    obtain ⟨target, ht⟩ := branchIf_eq_setPc _ _ s
    exact ⟨_, ht, .branch target hd.1⟩
  | lb | lh | lw | lbu | lhu =>
    obtain ⟨ho, -, rfl, -⟩ := hd
    exact ⟨_, rfl, .load _ _ ho⟩
  | sb =>
    obtain ⟨ho, -, rfl, rfl, rfl⟩ := hd
    exact ⟨_, rfl, .storeByte ho⟩
  | sh =>
    obtain ⟨ho, -, rfl, rfl, rfl⟩ := hd
    exact ⟨_, rfl, .storeHalf ho⟩
  | sw =>
    obtain ⟨ho, -, rfl, rfl, rfl⟩ := hd
    exact ⟨_, rfl, .storeWord ho⟩
  | addi | slti | sltiu | xori | ori | andi | slli | sll | slt | sltu | xor | or | and =>
    obtain ⟨ho, -, rfl, -⟩ := hd
    exact ⟨_, rfl, .alu _ (by simp [ho])⟩
  | srli | srai | add | sub | srl | sra =>
    obtain ⟨ho, -, -, rfl, -⟩ := hd
    exact ⟨_, rfl, .alu _ (by simp [ho])⟩
  | fence => exact ⟨_, rfl, .fence hd⟩
  | ecall | ebreak => exact ⟨_, rfl, .halt hd⟩

theorem execEffect_of_exec {w : Word} {i : Instr} {s t : State} (hd : decodeWord w = .ok i) (he : exec i s = .next t) :
    ExecEffect w s t := by
  obtain ⟨u, hu, effect⟩ := exec_execEffect (decodedFrom_of_decodeWord hd) s
  cases he.symm.trans hu
  exact effect

/-- The flag that makes a step a no-op is the negation of running (R100). -/
theorem stopped_eq_false_iff {s : State} : stopped s = false ↔ Running s := by
  simp [stopped, Running]

/-- The three branches of a step: a stopped core, a fault of the decoder, an instruction. -/
theorem step_cases {s t : State} (h : step s = .next t) :
    (¬ Running s ∧ t = s) ∨
    (Running s ∧ ∃ e, decodeWord (fetchWord s) = .error e ∧ t = takeFault e (afterFetch s)) ∨
    (Running s ∧ ∃ i, decodeWord (fetchWord s) = .ok i ∧ exec i (afterFetch s) = .next t) := by
  unfold step at h
  split at h
  case isTrue hs =>
    cases h
    exact .inl ⟨by simp [← stopped_eq_false_iff, hs], rfl⟩
  case isFalse hs =>
    have hr : Running s := stopped_eq_false_iff.mp (by simpa using hs)
    split at h
    case h_1 e he =>
      cases h
      exact .inr (.inl ⟨hr, e, he, rfl⟩)
    case h_2 i hi => exact .inr (.inr ⟨hr, i, hi, h⟩)

/-! ### The invariant -/

theorem inv_memWrite1 {s : State} (h : MachineInv s) (a v : Word) : MachineInv (memWrite1 a v s) := inv_writeByte h _ _

theorem inv_memWrite2 {s : State} (h : MachineInv s) (a v : Word) : MachineInv (memWrite2 a v s) :=
  inv_writeByte (inv_memWrite1 h a v) _ _

theorem inv_memWrite4 {s : State} (h : MachineInv s) (a v : Word) : MachineInv (memWrite4 a v s) :=
  inv_writeByte (inv_writeByte (inv_memWrite2 h a v) _ _) _ _

theorem inv_afterFetch {s : State} (h : MachineInv s) : MachineInv (afterFetch s) := ⟨h.memory, h.zero, h.oneStop⟩

/-- A core that is not faulted may halt. -/
theorem inv_halt {s : State} (h : MachineInv s) (hf : s.fault = .none) : MachineInv (halt s) :=
  ⟨h.memory, h.zero, fun _ => hf⟩

/-- A core that is not halted may fault. -/
theorem inv_takeFault {s : State} (h : MachineInv s) (hj : s.jammed = false) (e : DecodeError) :
    MachineInv (takeFault e s) :=
  ⟨h.memory, h.zero, fun (hj' : s.jammed = true) => by simp [hj] at hj'⟩

theorem inv_execEffect {w : Word} {s t : State} (h : MachineInv s) (hr : Running s) (effect : ExecEffect w s t) :
    MachineInv t := by
  cases effect with
  | alu v => exact inv_writeReg h _ v
  | jump target => exact inv_setPc (inv_writeReg h _ _) target
  | branch target => exact inv_setPc h target
  | load log v => exact inv_writeReg (inv_setPortLog h log) _ v
  | storeByte => exact inv_memWrite1 h _ _
  | storeHalf => exact inv_memWrite2 h _ _
  | storeWord => exact inv_memWrite4 h _ _
  | fence => exact h
  | halt => exact inv_halt h hr.2

/-! ### The registers -/

@[simp] theorem memWrite1_regs (a v : Word) (s : State) : (memWrite1 a v s).regs = s.regs := by simp [memWrite1]
@[simp] theorem memWrite2_regs (a v : Word) (s : State) : (memWrite2 a v s).regs = s.regs := by simp [memWrite2]
@[simp] theorem memWrite4_regs (a v : Word) (s : State) : (memWrite4 a v s).regs = s.regs := by simp [memWrite4]

/-- Stores, branches, FENCE and halts leave every register; the other instructions write at most the register of
w[11:7], and their opcodes are none of those four (R22). -/
theorem execEffect_regs {w : Word} {s t : State} (effect : ExecEffect w s t) :
    RegsKept s t ∨ (RegsKeptExcept (rdOf w) s t ∧ opcodeOf w ∉ [0x63#7, 0x23#7, 0x0F#7, 0x73#7]) := by
  cases effect with
  | alu v op => exact .inr ⟨fun _ hr => readReg_writeReg_ne v hr, by grind⟩
  | jump target op => exact .inr ⟨fun _ hr => readReg_writeReg_ne _ hr, by grind⟩
  | load log v op => exact .inr ⟨fun _ hr => readReg_writeReg_ne v hr, by grind⟩
  | storeByte => exact .inl (readReg_of_regs_eq (memWrite1_regs _ _ s))
  | storeHalf => exact .inl (readReg_of_regs_eq (memWrite2_regs _ _ s))
  | storeWord => exact .inl (readReg_of_regs_eq (memWrite4_regs _ _ s))
  | branch | fence | halt => exact .inl fun _ => rfl

end Sys2Proof.Machine

namespace Sys2Proof.Proofs

open Sys2Proof.Machine Sys2Proof.Safety

/-- Settles O3: a stopped step changes nothing, so no step sets a second stop flag; each shape of an instruction's effect
keeps the memory canonical and the slot of x0 zero. -/
theorem everyStepKeepsTheInvariant : Obligations.EveryStepKeepsTheInvariant := by
  intro s t hInv hStep
  obtain ⟨-, rfl⟩ | ⟨hr, e, -, rfl⟩ | ⟨hr, i, hd, he⟩ := step_cases hStep
  · exact hInv
  · exact inv_takeFault (inv_afterFetch hInv) hr.1 e
  · exact inv_execEffect (inv_afterFetch hInv) hr (execEffect_of_exec hd he)

/-- Settles O14: a stopped step and a fault leave the registers, and an instruction writes at most the register of w[11:7]. -/
theorem stepWritesAtMostItsDestination : Obligations.StepWritesAtMostItsDestination := by
  intro s t hStep
  obtain ⟨-, rfl⟩ | ⟨-, e, -, rfl⟩ | ⟨-, i, hd, he⟩ := step_cases hStep
  · exact ⟨fun _ _ => rfl, fun _ _ => rfl⟩
  · exact ⟨fun _ _ => rfl, fun _ _ => rfl⟩
  · obtain hAll | ⟨hExcept, hOp⟩ := execEffect_regs (execEffect_of_exec hd he)
    · exact ⟨fun r _ => hAll r, fun _ => hAll⟩
    · exact ⟨hExcept, fun ho => absurd ho hOp⟩

/-- Settles O2: each field of the reset state is a given value. -/
theorem resetMeetsTheInvariant : Obligations.ResetMeetsTheInvariant where
  left := { memory := Memory.wf_nil, zero := rfl, oneStop := fun _ => rfl }
  right := ⟨rfl, rfl⟩

end Sys2Proof.Proofs

/-! SUPPORT. The memory family (20_memory.md): the branches of a step as equations, what each shape of an instruction's
effect makes of storage and of the host's map, a word store read back, the port operations of an instruction, and a
step's blindness to the port's history. -/

namespace Sys2Proof.Machine

open Sys2Proof.Safety

/-! ### The three branches of a step, as equations -/

theorem step_of_not_running {s : State} (h : ¬ Running s) : step s = .next s := by
  have hs : stopped s = true := by simpa [← stopped_eq_false_iff] using h
  simp [step, hs]

theorem step_of_decodeError {s : State} (h : Running s) {e : DecodeError} (he : decodeWord (fetchWord s) = .error e) :
    step s = .next (takeFault e (afterFetch s)) := by
  simp [step, stopped_eq_false_iff.mpr h, he]

theorem step_of_decoded {s : State} (h : Running s) {i : Instr} (hi : decodeWord (fetchWord s) = .ok i) :
    step s = exec i (afterFetch s) := by
  simp [step, stopped_eq_false_iff.mpr h, hi]

/-! ### The host's map and storage -/

@[simp] theorem memWrite1_oracleRegions (a v : Word) (s : State) : (memWrite1 a v s).oracleRegions = s.oracleRegions := by
  simp [memWrite1]
@[simp] theorem memWrite2_oracleRegions (a v : Word) (s : State) : (memWrite2 a v s).oracleRegions = s.oracleRegions := by
  simp [memWrite2]
@[simp] theorem memWrite4_oracleRegions (a v : Word) (s : State) : (memWrite4 a v s).oracleRegions = s.oracleRegions := by
  simp [memWrite4]

theorem execEffect_host {w : Word} {s t : State} (effect : ExecEffect w s t) : HostKept s t := by
  cases effect with
  | alu v => exact writeReg_oracleRegions s _ v
  | jump target => exact writeReg_oracleRegions s _ _
  | load log v => exact writeReg_oracleRegions (s.setPortLog log) _ v
  | storeByte => exact memWrite1_oracleRegions _ _ s
  | storeHalf => exact memWrite2_oracleRegions _ _ s
  | storeWord => exact memWrite4_oracleRegions _ _ s
  | branch | fence | halt => rfl

/-- Only the three store shapes write storage, and they stand under opcode 0x23. -/
theorem execEffect_mem {w : Word} {s t : State} (effect : ExecEffect w s t) (hop : opcodeOf w ≠ 0x23#7) : MemKept s t := by
  cases effect with
  | alu v => exact ramByte_of_mem_eq (writeReg_mem s _ v)
  | jump target => exact ramByte_of_mem_eq (writeReg_mem s _ _)
  | load log v => exact ramByte_of_mem_eq (writeReg_mem (s.setPortLog log) _ v)
  | storeByte op | storeHalf op | storeWord op => exact absurd op hop
  | branch | fence | halt => exact fun _ => rfl

/-! ### A word store read back -/

theorem wordByte_toNat (v : Word) (k : Nat) : (wordByte v k).toNat = v.toNat / 256 ^ k % 256 := by
  simp [wordByte, Nat.shiftRight_eq_div_pow, Nat.pow_mul]

theorem joinHalf_toNat (b0 b1 : Byte) : (joinHalf b0 b1).toNat = b0.toNat + 256 * b1.toNat := by
  have h0 := b0.isLt
  rw [joinHalf, BitVec.toNat_append, ← Nat.shiftLeft_add_eq_or_of_lt h0, Nat.shiftLeft_eq]
  omega

/-- Two adjacent bytes of a word are the half that starts at the first. -/
theorem joinHalf_wordByte_toNat (v : Word) (k : Nat) :
    (joinHalf (wordByte v k) (wordByte v (k + 1))).toNat = v.toNat / 256 ^ k % 65536 := by
  rw [joinHalf_toNat, wordByte_toNat, wordByte_toNat, Nat.pow_succ, ← Nat.div_div_eq_div_mul]
  exact (Nat.mod_mul (x := v.toNat / 256 ^ k) (a := 256) (b := 256)).symm

/-- The four bytes of a word, joined, are the word (R53, R54). -/
theorem joinWord_wordByte (v : Word) : joinWord (wordByte v 0) (wordByte v 1) (wordByte v 2) (wordByte v 3) = v := by
  apply BitVec.eq_of_getLsbD_eq
  intro i hi
  simp only [joinWord, wordByte, BitVec.getLsbD_append, BitVec.getLsbD_extractLsb']
  interval_cases i <;> simp

@[simp] theorem isOracle_memWrite4 (ea v : Word) (s : State) (a : Word) : isOracle (memWrite4 ea v s) a = isOracle s a :=
  isOracle_of_regions_eq (memWrite4_oracleRegions ea v s) a

theorem memWrite4_pc (ea v : Word) (s : State) : (memWrite4 ea v s).pc = s.pc := by simp [memWrite4]

theorem ramByte_memWrite4 {ea : Word} (v : Word) {s : State} (hm : Memory.wf s.mem = true) {k : Nat} (hk : k < 4)
    (hs : Storage s (ea + BitVec.ofNat 32 k)) : ramByte (memWrite4 ea v s) (ea + BitVec.ofNat 32 k) = wordByte v k := by
  refine (storesOnly_memWrite4 ea v s hm).stored _ _ ?_ hs
  rw [storedByte, add_sub_cancel_word ea k (by omega), if_pos hk]
  rfl

/-- What a read of the port answers after a word store, at each of the four bytes. -/
theorem readFrom_memWrite4 {ea : Word} {v : Word} {s : State} (hm : Memory.wf s.mem = true) {k : Nat} (hk : k < 4)
    (hs : Storage s (ea + BitVec.ofNat 32 k)) {b : Byte} (h : ReadFrom (memWrite4 ea v s) (ea + BitVec.ofNat 32 k) b) :
    b = wordByte v k := by
  rw [← ramByte_memWrite4 v hm hk hs]
  exact h (by simpa [Storage] using hs)

/-- A word read at the address of a word store gives the value stored. -/
theorem memRead4_memWrite4 {ea : Word} (v : Word) {s : State} (hm : Memory.wf s.mem = true)
    (hs : ∀ k < 4, Storage s (ea + BitVec.ofNat 32 k)) : (memRead4 ea (memWrite4 ea v s)).1 = v := by
  obtain ⟨b0, b1, b2, b3, he, r0, r1, r2, r3⟩ := memRead4_eq ea (memWrite4 ea v s)
  have e0 := readFrom_memWrite4 hm (k := 0) (by decide) (hs 0 (by decide)) (b := b0) (by simpa using r0)
  have e1 := readFrom_memWrite4 hm (k := 1) (by decide) (hs 1 (by decide)) r1
  have e2 := readFrom_memWrite4 hm (k := 2) (by decide) (hs 2 (by decide)) r2
  have e3 := readFrom_memWrite4 hm (k := 3) (by decide) (hs 3 (by decide)) r3
  rw [he, e0, e1, e2, e3]
  exact joinWord_wordByte v

/-- A byte read at byte `k` of a word store gives that byte of the value. -/
theorem memRead1_memWrite4 {ea : Word} (v : Word) {s : State} (hm : Memory.wf s.mem = true) {k : Nat} (hk : k < 4)
    (hs : ∀ k < 4, Storage s (ea + BitVec.ofNat 32 k)) :
    (memRead1 (ea + BitVec.ofNat 32 k) (memWrite4 ea v s)).1 = wordByte v k :=
  readFrom_memWrite4 hm hk (hs k hk) portByte_of_storage

/-- A half read at byte `k` of a word store gives the two bytes from there. -/
theorem memRead2_memWrite4 {ea : Word} (v : Word) {s : State} (hm : Memory.wf s.mem = true) {k : Nat} (hk : k < 3)
    (hs : ∀ k < 4, Storage s (ea + BitVec.ofNat 32 k)) :
    (memRead2 (ea + BitVec.ofNat 32 k) (memWrite4 ea v s)).1 = joinHalf (wordByte v k) (wordByte v (k + 1)) := by
  obtain ⟨b0, b1, he, r0, r1⟩ := memRead2_eq (ea + BitVec.ofNat 32 k) (memWrite4 ea v s)
  have hnext : ea + BitVec.ofNat 32 k + 1#32 = ea + BitVec.ofNat 32 (k + 1) := by
    rw [BitVec.add_assoc, BitVec.ofNat_add]
  rw [hnext] at r1
  rw [he, readFrom_memWrite4 hm (by omega) (hs k (by omega)) r0, readFrom_memWrite4 hm (by omega) (hs (k + 1) (by omega)) r1]

/-! ### The port operations of an instruction -/

/-- `n` one-byte operations at ascending addresses (R53, R54), oldest first. -/
def portAccesses (isRead : Bool) (ea : Word) (n : Nat) : List (Bool × Word) :=
  (List.range n).map (fun k => (isRead, ea + BitVec.ofNat 32 k))

/-- The port operations of an instruction after its fetch, oldest first; `x` reads the registers. -/
def dataAccesses (x : RegIdx → Word) : Instr → List (Bool × Word)
  | .lb _ rs1 imm | .lbu _ rs1 imm => portAccesses true (x rs1 + immWord imm) 1
  | .lh _ rs1 imm | .lhu _ rs1 imm => portAccesses true (x rs1 + immWord imm) 2
  | .lw _ rs1 imm => portAccesses true (x rs1 + immWord imm) 4
  | .sb _ rs1 imm => portAccesses false (x rs1 + immWord imm) 1
  | .sh _ rs1 imm => portAccesses false (x rs1 + immWord imm) 2
  | .sw _ rs1 imm => portAccesses false (x rs1 + immWord imm) 4
  | _ => []

/-- From `s` to `t` the port saw exactly `ops`, oldest first, by kind and address. -/
def PortOpsAre (ops : List (Bool × Word)) (s t : State) : Prop :=
  t.portLog.map opKind = ops.reverse ++ s.portLog.map opKind

theorem PortOpsAre.trans {ops ops' : List (Bool × Word)} {s t u : State} (h : PortOpsAre ops s t)
    (h' : PortOpsAre ops' t u) : PortOpsAre (ops ++ ops') s u := by
  unfold PortOpsAre at *
  rw [h', h, List.reverse_append, List.append_assoc]

theorem portOpsAre_memRead1 (a : Word) (s : State) : PortOpsAre (portAccesses true a 1) s (memRead1 a s).2 := by
  simp [PortOpsAre, portAccesses, memRead1, readByte_eq, opKind]

theorem portOpsAre_memRead2 (a : Word) (s : State) : PortOpsAre (portAccesses true a 2) s (memRead2 a s).2 := by
  obtain ⟨b0, b1, he, -⟩ := memRead2_eq a s
  simp [he, PortOpsAre, portAccesses, List.range_succ, opKind]

theorem portOpsAre_memRead4 (a : Word) (s : State) : PortOpsAre (portAccesses true a 4) s (memRead4 a s).2 := by
  obtain ⟨b0, b1, b2, b3, he, -⟩ := memRead4_eq a s
  simp [he, PortOpsAre, portAccesses, List.range_succ, opKind]

theorem portOpsAre_memWrite1 (a v : Word) (s : State) : PortOpsAre (portAccesses false a 1) s (memWrite1 a v s) := by
  simp [PortOpsAre, portAccesses, memWrite1, opKind]

theorem portOpsAre_memWrite2 (a v : Word) (s : State) : PortOpsAre (portAccesses false a 2) s (memWrite2 a v s) := by
  simp [PortOpsAre, portAccesses, memWrite2, List.range_succ, opKind]

theorem portOpsAre_memWrite4 (a v : Word) (s : State) : PortOpsAre (portAccesses false a 4) s (memWrite4 a v s) := by
  simp [PortOpsAre, portAccesses, memWrite4, List.range_succ, opKind]

/-- A step fetches with four reads at `pc`, whatever the word turns out to be (R101). -/
theorem portOpsAre_afterFetch (s : State) : PortOpsAre (portAccesses true s.pc 4) s (afterFetch s) :=
  portOpsAre_memRead4 s.pc s

theorem portOpsAre_nil {s t : State} (h : NoPortOp s t) : PortOpsAre [] s t := congrArg (List.map opKind) h

theorem portOpsAre_writeReg {ops : List (Bool × Word)} {s t : State} (h : PortOpsAre ops s t) (rd : RegIdx) (v : Word) :
    PortOpsAre ops s (writeReg t rd v) := by
  rw [PortOpsAre, writeReg_portLog]; exact h

/-- Loads and stores access the port as listed, and no other instruction does. -/
theorem exec_portOps {i : Instr} {s t : State} (he : exec i s = .next t) : PortOpsAre (dataAccesses (readReg s) i) s t := by
  cases i with
  | lb | lbu => cases he; exact portOpsAre_writeReg (portOpsAre_memRead1 _ s) _ _
  | lh | lhu => cases he; exact portOpsAre_writeReg (portOpsAre_memRead2 _ s) _ _
  | lw => cases he; exact portOpsAre_writeReg (portOpsAre_memRead4 _ s) _ _
  | sb => cases he; exact portOpsAre_memWrite1 _ _ s
  | sh => cases he; exact portOpsAre_memWrite2 _ _ s
  | sw => cases he; exact portOpsAre_memWrite4 _ _ s
  | beq | bne | blt | bge | bltu | bgeu =>
    obtain ⟨target, ht⟩ := branchIf_eq_setPc _ _ s
    cases ht.symm.trans he
    exact portOpsAre_nil rfl
  | fence | ecall | ebreak => cases he; exact portOpsAre_nil rfl
  | _ => cases he; exact portOpsAre_nil (writeReg_portLog s _ _)

/-! ### The table of R57 -/

/-- Outside LOAD and STORE the table lists the fetch alone. -/
theorem expectedPortOps_of_opcode {w : Word} (hl : opcodeOf w ≠ 0x03#7) (hs : opcodeOf w ≠ 0x23#7) (A : Word)
    (x : RegIdx → Word) : expectedPortOps A w x = portAccesses true A 4 := by
  unfold opcodeOf at hl hs
  simp [expectedPortOps, hl, hs, portAccesses, List.range_succ]

/-- The table's operations for a word that decodes are the fetch and the instruction's own. -/
theorem expectedPortOps_of_decodedFrom {w : Word} {i : Instr} (hd : DecodedFrom w i) (A : Word) (x : RegIdx → Word) :
    expectedPortOps A w x = portAccesses true A 4 ++ dataAccesses x i := by
  cases i with
  | lb | lh | lw | lbu | lhu =>
    obtain ⟨ho, hf, -, rfl, rfl⟩ := hd
    unfold opcodeOf at ho
    unfold funct3Of at hf
    simp [expectedPortOps, ho, hf, dataAccesses, portAccesses, List.range_succ, rs1Of, immIOf, immWord, sext]
  | sb | sh | sw =>
    obtain ⟨ho, hf, -, rfl, rfl⟩ := hd
    unfold opcodeOf at ho
    unfold funct3Of at hf
    simp [expectedPortOps, ho, hf, dataAccesses, portAccesses, List.range_succ, rs1Of, immSOf, immWord, sext]
  | fence | ecall | ebreak =>
    have ho : opcodeOf w = _ := hd
    simpa [dataAccesses] using expectedPortOps_of_opcode (by simp [ho]) (by simp [ho]) A x
  | _ =>
    have ho := hd.1
    simpa [dataAccesses] using expectedPortOps_of_opcode (by simp [ho]) (by simp [ho]) A x

theorem dispatch_eq_none_of_decodeWord_error {w : Word} {e : DecodeError} {shape : Shape} (he : decodeWord w = .error e)
    (hs : shapeOf (opcodeOf w) = some shape) : dispatch w = none := by
  cases hd : dispatch w with
  | none => rfl
  | some i => simp [decodeWord, hs, hd] at he

theorem funct3_of_dispatchLoad_eq_none {f : BitVec 3} {rd rs1 : RegIdx} {imm : BitVec 12}
    (h : dispatchLoad f rd rs1 imm = none) : f ≠ 0#3 ∧ f ≠ 1#3 ∧ f ≠ 2#3 ∧ f ≠ 4#3 ∧ f ≠ 5#3 := by
  refine ⟨?_, ?_, ?_, ?_, ?_⟩ <;> rintro rfl <;> cases h

theorem funct3_of_dispatchStore_eq_none {f : BitVec 3} {rs2 rs1 : RegIdx} {imm : BitVec 12}
    (h : dispatchStore f rs2 rs1 imm = none) : f ≠ 0#3 ∧ f ≠ 1#3 ∧ f ≠ 2#3 := by
  refine ⟨?_, ?_, ?_⟩ <;> rintro rfl <;> cases h

/-- A LOAD or STORE word that faults has a funct3 without an entry (R88), so the table lists the fetch alone for every
word that faults. -/
theorem expectedPortOps_of_decodeError {w : Word} {e : DecodeError} (he : decodeWord w = .error e) (A : Word)
    (x : RegIdx → Word) : expectedPortOps A w x = portAccesses true A 4 := by
  by_cases hl : opcodeOf w = 0x03#7
  · have hd := dispatch_eq_none_of_decodeWord_error he (by rw [hl]; rfl)
    obtain ⟨h0, h1, h2, h4, h5⟩ := funct3_of_dispatchLoad_eq_none (by simpa [dispatch, hl] using hd)
    unfold opcodeOf at hl
    unfold funct3Of at h0 h1 h2 h4 h5
    simp [expectedPortOps, hl, h0, h1, h2, h4, h5, portAccesses, List.range_succ]
  by_cases hs : opcodeOf w = 0x23#7
  · have hd := dispatch_eq_none_of_decodeWord_error he (by rw [hs]; rfl)
    obtain ⟨h0, h1, h2⟩ := funct3_of_dispatchStore_eq_none (by simpa [dispatch, hs] using hd)
    unfold opcodeOf at hs
    unfold funct3Of at h0 h1 h2
    simp [expectedPortOps, hs, h0, h1, h2, portAccesses, List.range_succ]
  exact expectedPortOps_of_opcode hl hs A x

/-! ### With `HOST_RAM` the port's history reaches nothing -/

/-- Both outcomes are next states, and the second is the first under another history. -/
def NextUpToLog (o o' : Host.Outcome State Fault Refusal) : Prop :=
  ∃ t log, o = .next t ∧ o' = .next (t.setPortLog log)

theorem writeReg_setPortLog (s : State) (log : List PortOp) (rd : RegIdx) (v : Word) :
    writeReg (s.setPortLog log) rd v = (writeReg s rd v).setPortLog log := by
  unfold writeReg
  split <;> rfl

theorem writeByte_setPortLog (a : Word) (b : Byte) (s : State) (log : List PortOp) :
    writeByte a b (s.setPortLog log) = (writeByte a b s).setPortLog (.write a b :: log) := by
  unfold writeByte
  rw [isOracle_setPortLog]
  split <;> rfl

theorem memWrite2_setPortLog (a v : Word) (s : State) (history : List PortOp) : ∃ log,
    memWrite2 a v (s.setPortLog history) = (memWrite2 a v s).setPortLog log :=
  ⟨_, by rw [memWrite2, writeByte_setPortLog, writeByte_setPortLog]; rfl⟩

theorem memWrite4_setPortLog (a v : Word) (s : State) (history : List PortOp) : ∃ log,
    memWrite4 a v (s.setPortLog history) = (memWrite4 a v s).setPortLog log := by
  obtain ⟨log, hlog⟩ := memWrite2_setPortLog a v s history
  unfold memWrite2 at hlog
  exact ⟨_, by rw [memWrite4, hlog, writeByte_setPortLog, writeByte_setPortLog]; rfl⟩

theorem retire_setPortLog (rd : RegIdx) (v : Word) (s : State) (log : List PortOp) :
    NextUpToLog (retire rd v s) (retire rd v (s.setPortLog log)) :=
  ⟨_, log, rfl, congrArg Host.Outcome.next (writeReg_setPortLog s log rd v)⟩

theorem linkAndJump_setPortLog (rd : RegIdx) (target : Word) (s : State) (log : List PortOp) :
    NextUpToLog (linkAndJump rd target s) (linkAndJump rd target (s.setPortLog log)) :=
  ⟨_, log, rfl, by rw [linkAndJump, writeReg_setPortLog]; rfl⟩

theorem branchIf_setPortLog (cond : Bool) (off : BitVec 13) (s : State) (log : List PortOp) :
    NextUpToLog (branchIf cond off s) (branchIf cond off (s.setPortLog log)) := by
  cases cond <;> exact ⟨_, log, rfl, rfl⟩

theorem loadInto_setPortLog {n : Nat} {r r' : BitVec n × State} {log : List PortOp} (rd : RegIdx) (ext : BitVec n → Word)
    (hv : r'.1 = r.1) (hs : r'.2 = r.2.setPortLog log) : NextUpToLog (loadInto rd ext r) (loadInto rd ext r') :=
  ⟨_, log, rfl, by rw [loadInto, hv, hs, writeReg_setPortLog]⟩

theorem memRead1_fst_of_hostRam {s : State} (h : HostRam s) (a : Word) : (memRead1 a s).1 = ramByte s a :=
  portByte_of_storage (storage_of_hostRam h a)

theorem memRead2_fst_of_hostRam {s : State} (h : HostRam s) (a : Word) :
    (memRead2 a s).1 = joinHalf (ramByte s a) (ramByte s (a + 1#32)) := by
  obtain ⟨b0, b1, he, r0, r1⟩ := memRead2_eq a s
  rw [he, r0 (storage_of_hostRam h _), r1 (storage_of_hostRam h _)]

theorem memRead4_fst_of_hostRam {s : State} (h : HostRam s) (a : Word) :
    (memRead4 a s).1 = joinWord (ramByte s a) (ramByte s (a + 1#32)) (ramByte s (a + 2#32)) (ramByte s (a + 3#32)) :=
  memRead4_fst_of_storage a s (storage_of_hostRam h _) (storage_of_hostRam h _) (storage_of_hostRam h _)
    (storage_of_hostRam h _)

section

variable {s : State} (h : HostRam s) (history : List PortOp)
include h

theorem hostRam_setPortLog : HostRam (s.setPortLog history) := h

theorem memRead1_fst_setPortLog (a : Word) : (memRead1 a (s.setPortLog history)).1 = (memRead1 a s).1 := by
  rw [memRead1_fst_of_hostRam h, memRead1_fst_of_hostRam (hostRam_setPortLog h history)]
  rfl

theorem memRead2_fst_setPortLog (a : Word) : (memRead2 a (s.setPortLog history)).1 = (memRead2 a s).1 := by
  rw [memRead2_fst_of_hostRam h, memRead2_fst_of_hostRam (hostRam_setPortLog h history)]
  rfl

theorem memRead4_fst_setPortLog (a : Word) : (memRead4 a (s.setPortLog history)).1 = (memRead4 a s).1 := by
  rw [memRead4_fst_of_hostRam h, memRead4_fst_of_hostRam (hostRam_setPortLog h history)]
  rfl

/-- No instruction reads the history where every read is answered by storage: loads are the only readers of the port. -/
theorem exec_setPortLog (i : Instr) : NextUpToLog (exec i s) (exec i (s.setPortLog history)) := by
  cases i with
  | lb rd | lbu rd => exact loadInto_setPortLog rd _ (memRead1_fst_setPortLog h history _) rfl
  | lh rd | lhu rd => exact loadInto_setPortLog rd _ (memRead2_fst_setPortLog h history _) rfl
  | lw rd => exact loadInto_setPortLog rd _ (memRead4_fst_setPortLog h history _) rfl
  | sb => exact ⟨_, _, rfl, congrArg Host.Outcome.next (writeByte_setPortLog _ _ s history)⟩
  | sh =>
    obtain ⟨log, hlog⟩ := memWrite2_setPortLog _ _ s history
    exact ⟨_, log, rfl, congrArg Host.Outcome.next hlog⟩
  | sw =>
    obtain ⟨log, hlog⟩ := memWrite4_setPortLog _ _ s history
    exact ⟨_, log, rfl, congrArg Host.Outcome.next hlog⟩
  | beq | bne | blt | bge | bltu | bgeu => exact branchIf_setPortLog _ _ s history
  | jal | jalr => exact linkAndJump_setPortLog _ _ s history
  | fence | ecall | ebreak => exact ⟨_, history, rfl, rfl⟩
  | _ => exact retire_setPortLog _ _ s history

theorem step_setPortLog : NextUpToLog (step s) (step (s.setPortLog history)) := by
  by_cases hr : Running s
  case neg =>
    rw [step_of_not_running hr, step_of_not_running (s := s.setPortLog history) hr]
    exact ⟨s, history, rfl, rfl⟩
  have hr' : Running (s.setPortLog history) := hr
  have hw : fetchWord (s.setPortLog history) = fetchWord s := memRead4_fst_setPortLog h history s.pc
  obtain ⟨log, hlog⟩ : ∃ log, afterFetch (s.setPortLog history) = (afterFetch s).setPortLog log := ⟨_, rfl⟩
  cases hd : decodeWord (fetchWord s) with
  | error e =>
    rw [step_of_decodeError hr hd, step_of_decodeError hr' (hw ▸ hd), hlog]
    exact ⟨_, log, rfl, rfl⟩
  | ok i =>
    rw [step_of_decoded hr hd, step_of_decoded hr' (hw ▸ hd), hlog]
    exact exec_setPortLog (s := afterFetch s) h log i

end

/-! ### The value a load leaves -/

theorem loadInto_result {n : Nat} {rd : RegIdx} (hrd : rd ≠ 0#5) (ext : BitVec n → Word) (r : BitVec n × State) :
    ∃ u, loadInto rd ext r = .next u ∧ readReg u rd = ext r.1 :=
  ⟨_, rfl, by rw [readReg_writeReg_same, if_neg hrd]⟩

theorem zext_toNat {n : Nat} (hn : n ≤ 32) (v : BitVec n) : (zext v).toNat = v.toNat := BitVec.toNat_setWidth_of_le hn

end Sys2Proof.Machine

namespace Sys2Proof.Proofs

open Sys2Proof.Machine Sys2Proof.Safety

/-- Settles O15: a stopped core issues nothing, a fault leaves the four fetch reads alone, and a decoded instruction adds
its own accesses, which are those of its row in the table. -/
theorem stepIssuesExactlyTheListedPortOperations : Obligations.StepIssuesExactlyTheListedPortOperations := by
  intro s t hStep
  obtain ⟨hn, rfl⟩ | ⟨hr, e, he, rfl⟩ | ⟨hr, i, hd, he⟩ := step_cases hStep
  · exact ⟨fun hr => absurd hr hn, fun _ => rfl⟩
  · refine ⟨fun _ => ?_, fun hn => absurd hr hn⟩
    rw [expectedPortOps_of_decodeError he]
    exact portOpsAre_afterFetch s
  · refine ⟨fun _ => ?_, fun hn => absurd hr hn⟩
    rw [expectedPortOps_of_decodedFrom (decodedFrom_of_decodeWord hd)]
    exact (portOpsAre_afterFetch s).trans (exec_portOps he)

/-- Settles O13: no shape of an instruction's effect moves the host's map, and only the store shapes write storage. -/
theorem onlyStoreWordsChangeMemory : Obligations.OnlyStoreWordsChangeMemory := by
  intro s t hStep
  obtain ⟨-, rfl⟩ | ⟨-, e, -, rfl⟩ | ⟨-, i, hd, he⟩ := step_cases hStep
  · exact ⟨rfl, fun _ _ => rfl⟩
  · exact ⟨rfl, fun _ _ => rfl⟩
  · have effect := execEffect_of_exec hd he
    have host : HostKept (afterFetch s) t := execEffect_host effect
    have mem : opcodeOf (fetchWord s) ≠ 0x23#7 → MemKept (afterFetch s) t := execEffect_mem effect
    exact ⟨host, mem⟩

/-- Settles O17: the next fetch is a word read at the address of the store. -/
theorem nextFetchSeesTheStore : Obligations.NextFetchSeesTheStore := by
  intro s rs2 rs1 imm hm hea h0 h1 h2 h3
  have hs : ∀ k < 4, Storage s (s.pc + BitVec.ofNat 32 k) := by
    intro k hk
    interval_cases k
    · simpa using h0
    · exact h1
    · exact h2
    · exact h3
  refine ⟨memWrite4 s.pc (readReg s rs2) s, by rw [← hea]; rfl, ?_⟩
  rw [fetchWord, fetch, memWrite4_pc]
  exact memRead4_memWrite4 _ hm hs

/-- Settles O18: the word, a byte and a half of the store are read back by the port, and the loads zero-extend them. -/
theorem loadAfterStoreReturnsTheValue : Obligations.LoadAfterStoreReturnsTheValue := by
  intro s rs2 rs1 imm rd rb disp hm hrd hs
  refine ⟨_, rfl, fun hea => ?_, fun k hk hea => ?_, fun k hk hea => ?_⟩
  · obtain ⟨u, hu, hv⟩ := loadInto_result hrd zext (memRead4 _ _)
    refine ⟨u, hu, ?_⟩
    rw [hv, hea, memRead4_memWrite4 _ hm hs]
    exact BitVec.setWidth_eq _
  · obtain ⟨u, hu, hv⟩ := loadInto_result hrd zext (memRead1 _ _)
    refine ⟨u, hu, ?_⟩
    rw [hv, hea, memRead1_memWrite4 _ hm hk hs, zext_toNat (by decide), wordByte_toNat]
  · obtain ⟨u, hu, hv⟩ := loadInto_result hrd zext (memRead2 _ _)
    refine ⟨u, hu, ?_⟩
    rw [hv, hea, memRead2_memWrite4 _ hm hk hs, zext_toNat (by decide), joinHalf_wordByte_toNat]

/-- Settles O19: the step from another history answers the same next state under another history. -/
theorem hostRamStepIgnoresTheHistory : Obligations.HostRamStepIgnoresTheHistory := by
  intro s history h
  obtain ⟨t, log, ht, hu⟩ := step_setPortLog h history
  exact ⟨t, t.setPortLog log, ht, hu, ⟨rfl, rfl, rfl, rfl, rfl, rfl⟩⟩

end Sys2Proof.Proofs

/-! SUPPORT. The encoding family (30_encoding.md): the three answers of the decoder as equivalences, where the dispatch table
has no entry, the decoder's converse of `decodedFrom_of_decodeWord`, and what it reads from an encoded word. -/

namespace Sys2Proof

open Sys2Proof.Safety

/-! ### The three answers of the decoder -/

/-- The shape table has an entry for every opcode that the dispatch table has one for. -/
theorem shapeOf_ne_none_of_dispatch {w : Word} {i : Instr} (h : dispatch w = some i) : shapeOf (opcodeOf w) ≠ none := by
  unfold dispatch at h
  split at h
  case h_12 => cases h
  all_goals
    rename_i ho
    simp [ho, shapeOf]

theorem decodeWord_eq_ok_iff {w : Word} {i : Instr} : decodeWord w = .ok i ↔ dispatch w = some i := by
  unfold decodeWord
  cases hs : shapeOf (opcodeOf w) with
  | none => exact ⟨nofun, fun hd => absurd hs (shapeOf_ne_none_of_dispatch hd)⟩
  | some shape => cases dispatch w <;> simp

/-- The shape is looked up before the key (R208). -/
theorem decodeWord_eq_decodeFault_iff {w : Word} {opcode : BitVec 7} :
    decodeWord w = .error (.decodeFault opcode) ↔ shapeOf (opcodeOf w) = none ∧ opcodeOf w = opcode := by
  unfold decodeWord
  cases shapeOf (opcodeOf w) with
  | none => simp
  | some shape => cases dispatch w <;> simp

theorem decodeWord_eq_executionFault_iff {w : Word} {opcode : BitVec 7} {funct3 : BitVec 3} :
    decodeWord w = .error (.executionFault opcode funct3) ↔
      (shapeOf (opcodeOf w) ≠ none ∧ dispatch w = none) ∧ opcodeOf w = opcode ∧ funct3Of w = funct3 := by
  unfold decodeWord
  cases shapeOf (opcodeOf w) with
  | none => simp
  | some shape => cases dispatch w <;> simp

/-! ### Where the tables have no entry (R88, R89) -/

theorem shapeOf_eq_none_iff (opcode : BitVec 7) : shapeOf opcode = none ↔ opcode ∉ shapeOpcodes := by
  revert opcode
  decide

theorem funct3_cases (f : BitVec 3) :
    f = 0#3 ∨ f = 1#3 ∨ f = 2#3 ∨ f = 3#3 ∨ f = 4#3 ∨ f = 5#3 ∨ f = 6#3 ∨ f = 7#3 := by
  revert f
  decide

theorem dispatchBranch_eq_none_iff (f : BitVec 3) (rs1 rs2 : RegIdx) (off : BitVec 13) :
    dispatchBranch f rs1 rs2 off = none ↔ f ∈ [2#3, 3#3] := by
  rcases funct3_cases f with rfl | rfl | rfl | rfl | rfl | rfl | rfl | rfl <;> simp [dispatchBranch]

theorem dispatchLoad_eq_none_iff (f : BitVec 3) (rd rs1 : RegIdx) (imm : BitVec 12) :
    dispatchLoad f rd rs1 imm = none ↔ f ∈ [3#3, 6#3, 7#3] := by
  rcases funct3_cases f with rfl | rfl | rfl | rfl | rfl | rfl | rfl | rfl <;> simp [dispatchLoad]

theorem dispatchStore_eq_none_iff (f : BitVec 3) (rs2 rs1 : RegIdx) (imm : BitVec 12) :
    dispatchStore f rs2 rs1 imm = none ↔ f ∈ [3#3, 4#3, 5#3, 6#3, 7#3] := by
  rcases funct3_cases f with rfl | rfl | rfl | rfl | rfl | rfl | rfl | rfl <;> simp [dispatchStore]

/-- OP-IMM has an entry for every key. -/
theorem exists_dispatchOpImm (f : BitVec 3) (alt : Bool) (rd rs1 : RegIdx) (imm : BitVec 12) (shamt : BitVec 5) :
    ∃ i, dispatchOpImm f alt rd rs1 imm shamt = some i := by
  rcases funct3_cases f with rfl | rfl | rfl | rfl | rfl | rfl | rfl | rfl <;> cases alt <;> exact ⟨_, rfl⟩

/-- OP has an entry for every key. -/
theorem exists_dispatchOp (f : BitVec 3) (alt : Bool) (rd rs1 rs2 : RegIdx) :
    ∃ i, dispatchOp f alt rd rs1 rs2 = some i := by
  rcases funct3_cases f with rfl | rfl | rfl | rfl | rfl | rfl | rfl | rfl <;> cases alt <;> exact ⟨_, rfl⟩

theorem unmappedKey_iff {w : Word} : UnmappedKey w ↔
    (opcodeOf w = 0x67#7 ∧ funct3Of w ≠ 0#3) ∨ (opcodeOf w = 0x63#7 ∧ funct3Of w ∈ [2#3, 3#3]) ∨
    (opcodeOf w = 0x03#7 ∧ funct3Of w ∈ [3#3, 6#3, 7#3]) ∨
    (opcodeOf w = 0x23#7 ∧ funct3Of w ∈ [3#3, 4#3, 5#3, 6#3, 7#3]) := Iff.rfl

/-- The dispatch table lacks an entry for an opcode of the shape table exactly at the unmapped keys. -/
theorem dispatch_eq_none_iff_unmappedKey {w : Word} :
    shapeOf (opcodeOf w) ≠ none ∧ dispatch w = none ↔ UnmappedKey w := by
  rw [unmappedKey_iff]
  unfold dispatch
  split
  case h_4 ho => simp [ho, shapeOf]
  case h_5 ho => simp [ho, shapeOf, dispatchBranch_eq_none_iff]
  case h_6 ho => simp [ho, shapeOf, dispatchLoad_eq_none_iff]
  case h_7 ho => simp [ho, shapeOf, dispatchStore_eq_none_iff]
  case h_8 ho =>
    obtain ⟨i, hi⟩ := exists_dispatchOpImm (funct3Of w) (altBitOf w) (rdOf w) (rs1Of w) (immIOf w) (shamtOf w)
    simp [ho, hi]
  case h_9 ho =>
    obtain ⟨i, hi⟩ := exists_dispatchOp (funct3Of w) (altBitOf w) (rdOf w) (rs1Of w) (rs2Of w)
    simp [ho, hi]
  case h_12 => simp_all [shapeOf]
  all_goals
    rename_i ho
    simp [ho]

/-! ### The converse of `decodedFrom_of_decodeWord` -/

/-- A word whose key and fields select `i` decodes to `i`; under SYSTEM alone, two instructions have one key (log entry 8). -/
theorem decodeWord_of_decodedFrom {w : Word} {i : Instr} (hd : DecodedFrom w i) (hsys : opcodeOf w ≠ 0x73#7) :
    decodeWord w = .ok i := by
  rw [decodeWord_eq_ok_iff]
  cases i with
  | lui | auipc | jal =>
    obtain ⟨ho, rfl, rfl⟩ := hd
    simp [dispatch, ho]
  | jalr =>
    obtain ⟨ho, hf, rfl, rfl, rfl⟩ := hd
    simp [dispatch, ho, hf]
  | beq | bne | blt | bge | bltu | bgeu =>
    obtain ⟨ho, hf, rfl, rfl, rfl⟩ := hd
    simp [dispatch, ho, hf, dispatchBranch]
  | lb | lh | lw | lbu | lhu =>
    obtain ⟨ho, hf, rfl, rfl, rfl⟩ := hd
    simp [dispatch, ho, hf, dispatchLoad]
  | sb | sh | sw =>
    obtain ⟨ho, hf, rfl, rfl, rfl⟩ := hd
    simp [dispatch, ho, hf, dispatchStore]
  | addi | slti | sltiu | xori | ori | andi | slli =>
    obtain ⟨ho, hf, rfl, rfl, rfl⟩ := hd
    simp [dispatch, ho, hf, dispatchOpImm]
  | srli | srai =>
    obtain ⟨ho, hf, ha, rfl, rfl, rfl⟩ := hd
    simp [dispatch, ho, hf, ha, dispatchOpImm]
  | add | sub | srl | sra =>
    obtain ⟨ho, hf, ha, rfl, rfl, rfl⟩ := hd
    simp [dispatch, ho, hf, ha, dispatchOp]
  | sll | slt | sltu | xor | or | and =>
    obtain ⟨ho, hf, rfl, rfl, rfl⟩ := hd
    simp [dispatch, ho, hf, dispatchOp]
  | fence => simp [dispatch, show opcodeOf w = 0x0F#7 from hd]
  | ecall | ebreak => exact absurd hd hsys

/-! ### Encoded words -/

/-- The encoder writes the key and the fields of the instruction; an odd offset alone is lost. -/
theorem decodedFrom_encode {i : Instr} (hwf : i.wf = true) : DecodedFrom (encode i) i := by
  cases i with
  | jal rd off => simp [DecodedFrom, encode, immJOf_encodeJ _ _ _ hwf]
  | beq _ _ off | bne _ _ off | blt _ _ off | bge _ _ off | bltu _ _ off | bgeu _ _ off =>
    simp [DecodedFrom, encode, immBOf_encodeB _ _ _ _ _ hwf]
  | fence | ecall | ebreak => rfl
  | _ => simp [DecodedFrom, encode]

/-- Only ECALL and EBREAK are encoded under the SYSTEM opcode. -/
theorem opcodeOf_encode_ne_system {i : Instr} (hwf : i.wf = true) (hcall : i ≠ .ecall) (hbreak : i ≠ .ebreak) :
    opcodeOf (encode i) ≠ 0x73#7 := by
  have hd := decodedFrom_encode hwf
  cases i with
  | ecall => exact absurd rfl hcall
  | ebreak => exact absurd rfl hbreak
  | fence => simp [show opcodeOf (encode .fence) = 0x0F#7 from hd]
  | _ => simp [hd.1]

/-! ### What a decoded word satisfies -/

/-- The instruction that the fields of a word select is well-formed: bit 0 of its offset comes from no bit of the word. -/
theorem wf_of_decodedFrom {w : Word} {i : Instr} (hd : DecodedFrom w i) : i.wf = true := by
  cases i with
  | jal =>
    obtain ⟨-, -, rfl⟩ := hd
    exact evenOffset_immJOf w
  | beq | bne | blt | bge | bltu | bgeu =>
    obtain ⟨-, -, -, -, rfl⟩ := hd
    exact evenOffset_immBOf w
  | _ => rfl

/-- The row's mask keeps the opcode, and where they belong to the key, funct3 and w[30]. -/
theorem and_rowMask_of_decodedFrom {w : Word} {i : Instr} (hd : DecodedFrom w i) : w &&& i.rowMask = i.rowMatch := by
  cases i with
  | lui | auipc | jal => exact Laws.RowMatch.opcodeRow hd.1 rfl
  | fence | ecall | ebreak => exact Laws.RowMatch.opcodeRow hd rfl
  | srli | srai | add | sub | srl | sra =>
    obtain ⟨ho, hf, ha, -⟩ := hd
    exact Laws.RowMatch.altRow ho hf ha rfl
  | _ =>
    obtain ⟨ho, hf, -⟩ := hd
    exact Laws.RowMatch.funct3Row ho hf rfl

/-! ### The bits that are examined (R90) -/

/-- Words that agree on w[24:0] agree on every field of shape R but funct7. -/
theorem fields_eq_of_sameBits {w w' : Word} (h : SameBits 0 25 w w') :
    opcodeOf w' = opcodeOf w ∧ funct3Of w' = funct3Of w ∧ rdOf w' = rdOf w ∧ rs1Of w' = rs1Of w ∧ rs2Of w' = rs2Of w ∧
      shamtOf w' = shamtOf w := by
  have field : ∀ lo n, lo + n ≤ 25 → w'.extractLsb' lo n = w.extractLsb' lo n := by
    intro lo n hn
    rw [← BitVec.extractLsb'_extractLsb'_of_le (x := w') hn, ← h, BitVec.extractLsb'_extractLsb'_of_le hn]
  exact ⟨field 0 7 (by decide), field 12 3 (by decide), field 7 5 (by decide), field 15 5 (by decide),
    field 20 5 (by decide), field 20 5 (by decide)⟩

theorem altBitOf_eq_of_sameBits {w w' : Word} (h : SameBits 30 1 w w') : altBitOf w' = altBitOf w := by
  simpa [altBitOf] using congrArg (·.getLsbD 0) h.symm

/-- OP words that agree on w[24:0] and w[30] have the same entry of the dispatch table. -/
theorem exists_decodeWord_op {w w' : Word} (ho : opcodeOf w = 0x33#7) (h : SameBits 0 25 w w') (ha : SameBits 30 1 w w') :
    ∃ i, decodeWord w = .ok i ∧ decodeWord w' = .ok i := by
  obtain ⟨ho', hf, hrd, hrs1, hrs2, -⟩ := fields_eq_of_sameBits h
  obtain ⟨i, hi⟩ := exists_dispatchOp (funct3Of w) (altBitOf w) (rdOf w) (rs1Of w) (rs2Of w)
  refine ⟨i, ?_, ?_⟩ <;> rw [decodeWord_eq_ok_iff]
  · simp [dispatch, ho, hi]
  · simp [dispatch, ho', ho, hf, altBitOf_eq_of_sameBits ha, hrd, hrs1, hrs2, hi]

/-- SLLI words that agree on w[24:0] are one instruction. -/
theorem exists_decodeWord_slli {w w' : Word} (ho : opcodeOf w = 0x13#7) (hf : funct3Of w = 1#3) (h : SameBits 0 25 w w') :
    ∃ i, decodeWord w = .ok i ∧ decodeWord w' = .ok i := by
  obtain ⟨ho', hf', hrd, hrs1, -, hsh⟩ := fields_eq_of_sameBits h
  rw [ho] at ho'
  rw [hf] at hf'
  exact ⟨.slli (rdOf w) (rs1Of w) (shamtOf w), decodeWord_of_decodedFrom ⟨ho, hf, rfl, rfl, rfl⟩ (by simp [ho]),
    decodeWord_of_decodedFrom ⟨ho', hf', hrd.symm, hrs1.symm, hsh.symm⟩ (by simp [ho'])⟩

/-- SRLI and SRAI words that agree on w[24:0] and w[30] are one instruction, which w[30] tells. -/
theorem exists_decodeWord_srli_srai {w w' : Word} (ho : opcodeOf w = 0x13#7) (hf : funct3Of w = 5#3)
    (h : SameBits 0 25 w w') (halt : SameBits 30 1 w w') : ∃ i, decodeWord w = .ok i ∧ decodeWord w' = .ok i := by
  obtain ⟨ho', hf', hrd, hrs1, -, hsh⟩ := fields_eq_of_sameBits h
  have ha' := altBitOf_eq_of_sameBits halt
  rw [ho] at ho'
  rw [hf] at hf'
  cases ha : altBitOf w with
  | false =>
    rw [ha] at ha'
    exact ⟨.srli (rdOf w) (rs1Of w) (shamtOf w), decodeWord_of_decodedFrom ⟨ho, hf, ha, rfl, rfl, rfl⟩ (by simp [ho]),
      decodeWord_of_decodedFrom ⟨ho', hf', ha', hrd.symm, hrs1.symm, hsh.symm⟩ (by simp [ho'])⟩
  | true =>
    rw [ha] at ha'
    exact ⟨.srai (rdOf w) (rs1Of w) (shamtOf w), decodeWord_of_decodedFrom ⟨ho, hf, ha, rfl, rfl, rfl⟩ (by simp [ho]),
      decodeWord_of_decodedFrom ⟨ho', hf', ha', hrd.symm, hrs1.symm, hsh.symm⟩ (by simp [ho'])⟩

/-- Every SYSTEM word has one of the two names, whatever bits 31:7 hold (R193). -/
theorem decodeWord_system {w : Word} (ho : opcodeOf w = 0x73#7) : decodeWord w = .ok (dispatchSystem w) := by
  rw [decodeWord_eq_ok_iff]
  simp [dispatch, ho]

/-- The two names have one meaning (R191, R192). -/
theorem exec_dispatchSystem (w : Word) (s : Machine.State) :
    Machine.exec (dispatchSystem w) s = Machine.exec .ecall s := by
  unfold dispatchSystem
  split <;> rfl

end Sys2Proof

namespace Sys2Proof.Proofs

open Sys2Proof.Machine Sys2Proof.Safety

/-- Settles O21: the encoder writes the key and the fields, and the decoder answers the instruction they select; ECALL and
EBREAK, which share the SYSTEM key, are two words. -/
theorem decodeInvertsEncode : Obligations.DecodeInvertsEncode := by
  intro i hwf
  by_cases hcall : i = .ecall
  · subst hcall
    rfl
  by_cases hbreak : i = .ebreak
  · subst hbreak
    rfl
  exact decodeWord_of_decodedFrom (decodedFrom_encode hwf) (opcodeOf_encode_ne_system hwf hcall hbreak)

/-- Settles O22: the decoder answers only what the fields of the word select. -/
theorem decodedInstructionIsWellFormed : Obligations.DecodedInstructionIsWellFormed :=
  fun _ _ hd => wf_of_decodedFrom (decodedFrom_of_decodeWord hd)

/-- Settles O23: the decoder raises the DecodeFault where the shape table has no entry. -/
theorem decodeFaultExactlyOutsideTheShapeTable : Obligations.DecodeFaultExactlyOutsideTheShapeTable := by
  refine ⟨fun w => ?_, fun w opcode h => ?_, rfl⟩
  · simp only [decodeWord_eq_decodeFault_iff, exists_and_left, exists_eq', and_true, shapeOf_eq_none_iff]
    rfl
  · exact (decodeWord_eq_decodeFault_iff.mp h).2.symm

/-- Settles O24: the decoder raises the ExecutionFault where the shape table has an entry and the dispatch table none. -/
theorem executionFaultExactlyOnTheUnmappedKeys : Obligations.ExecutionFaultExactlyOnTheUnmappedKeys := by
  refine ⟨fun w => ?_, fun w opcode funct3 h => ?_⟩
  · simp only [decodeWord_eq_executionFault_iff, exists_and_left, exists_eq', and_true]
    exact dispatch_eq_none_iff_unmappedKey
  · obtain ⟨-, rfl, rfl⟩ := decodeWord_eq_executionFault_iff.mp h
    exact ⟨rfl, rfl⟩

/-- Settles O25: the key that selects an instruction is its row's match. -/
theorem decodedWordLiesInItsTableRow : Obligations.DecodedWordLiesInItsTableRow :=
  fun _ _ hd => and_rowMask_of_decodedFrom (decodedFrom_of_decodeWord hd)

/-- Settles O26: the dispatch table's entry for these words is a function of the examined bits. -/
theorem unexaminedBitsNeverMatter : Obligations.UnexaminedBitsNeverMatter := by
  refine ⟨fun w w' ho h halt => ?_, fun w w' hkey h => ?_, fun w w' hkey h halt => ?_, fun w ho => ?_, fun w ho => ?_⟩
  · exact exists_decodeWord_op ho h halt
  · obtain ⟨ho, hf⟩ := hkey
    exact exists_decodeWord_slli ho hf h
  · obtain ⟨ho, hf⟩ := hkey
    exact exists_decodeWord_srli_srai ho hf h halt
  · have hop : opcodeOf w = 0x0F#7 := ho
    exact decodeWord_of_decodedFrom hop (by simp [hop])
  · exact ⟨dispatchSystem w, decodeWord_system ho, exec_dispatchSystem w⟩

end Sys2Proof.Proofs

/-! SUPPORT. The assembler's expansions (30_encoding.md R94): the split of a constant into its upper 20 and lower 12 bits, and
the pairs of instructions that join the two parts again. -/

namespace Sys2Proof.Machine

open Sys2Proof.Safety

/-! ### The two parts of a constant -/

theorem upperWord_toNat (imm : BitVec 20) : (upperWord imm).toNat = imm.toNat * 2 ^ 12 := by
  unfold upperWord
  rw [BitVec.toNat_append]
  simp [Nat.shiftLeft_eq]

/-- Sign extension keeps the low 12 bits. -/
theorem immWord_toNat_mod (imm : BitVec 12) : (immWord imm).toNat % 2 ^ 12 = imm.toNat := by
  have h : (immWord imm).setWidth 12 = imm := by
    apply BitVec.eq_of_getLsbD_eq
    intro i hi
    have hi' : i < 32 := by omega
    simp [immWord, sext, BitVec.getElem_signExtend, hi, hi']
  rw [← BitVec.toNat_setWidth, h]

/-- What `hi20` keeps the upper part of has its low 12 bits clear. -/
theorem sub_lo12_toNat_mod (v : Word) : (v - immWord (lo12 v)).toNat % 2 ^ 12 = 0 := by
  have hlow := immWord_toNat_mod (lo12 v)
  rw [lo12, BitVec.extractLsb'_toNat, Nat.shiftRight_zero] at hlow
  rw [BitVec.toNat_sub, lo12]
  omega

theorem upperWord_shiftRight {v : Word} (h : v.toNat % 2 ^ 12 = 0) : upperWord ((v >>> 12).setWidth 20) = v := by
  apply BitVec.eq_of_toNat_eq
  rw [upperWord_toNat, BitVec.toNat_setWidth, BitVec.toNat_ushiftRight, Nat.shiftRight_eq_div_pow]
  omega

/-- The two parts of a constant add up to it: `hi20` makes up for the sign of `lo12`. -/
theorem upperWord_hi20_add (v : Word) : upperWord (hi20 v) + immWord (lo12 v) = v := by
  have hhi : upperWord (hi20 v) = v - immWord (lo12 v) := upperWord_shiftRight (sub_lo12_toNat_mod v)
  rw [hhi, BitVec.sub_add_cancel]

/-! ### Sequences of one and two instructions -/

/-- `s` with `pc` past `n` instructions. -/
def State.advance (s : State) (n : Nat) : State := s.setPc (s.pc + BitVec.ofNat 32 (4 * n))

theorem execSeq_cons {i : Instr} {s t : State} (h : exec i (s.advance 1) = .next t) (rest : List Instr) :
    execSeq (i :: rest) s = execSeq rest t := by
  rw [execSeq, show exec i (s.setPc (s.pc + 4#32)) = .next t from h]

/-- Two instructions, of which the first does not jump, stand 8 bytes in. -/
theorem advance_pc_of_pc_eq {s t : State} (h : t.pc = (s.advance 1).pc) : (t.advance 1).pc = (s.advance 2).pc := by
  change t.pc + 4#32 = s.pc + 8#32
  rw [h]
  exact BitVec.add_assoc s.pc 4#32 4#32

/-- Of two writes to one register the second stays. -/
theorem writesOnly_trans {r : RegIdx} {v v' : Word} {s t u : State} (h : WritesOnly r v (s.advance 1) t)
    (h' : WritesOnly r v' (t.advance 1) u) : WritesOnly r v' (s.advance 2) u where
  result := h'.result
  regs := fun q hq => (h'.regs q hq).trans (h.regs q hq)
  pc := h'.pc.trans (advance_pc_of_pc_eq h.pc)
  status := ⟨h'.status.1.trans h.status.1, h'.status.2.trans h.status.2⟩
  mem := fun a => (h'.mem a).trans (h.mem a)
  host := h'.host.trans h.host
  port := h'.port.trans h.port

/-- What is written to x0 does not matter. -/
theorem writesOnly_congr {rd : RegIdx} {v v' : Word} {s t : State} (h : WritesOnly rd v s t) (hv : rd ≠ 0#5 → v = v') :
    WritesOnly rd v' s t := by
  refine ⟨?_, h.regs, h.pc, h.status, h.mem, h.host, h.port⟩
  rw [h.result]
  split
  case isTrue => rfl
  case isFalse hrd => exact hv hrd

theorem lui_writesOnly (rd : RegIdx) (imm : BitVec 20) (s : State) :
    ∃ t, exec (.lui rd imm) s = .next t ∧ WritesOnly rd (upperWord imm) s t :=
  retire_writesOnly rd _ s

theorem addi_writesOnly (rd rs1 : RegIdx) (imm : BitVec 12) (s : State) :
    ∃ t, exec (.addi rd rs1 imm) s = .next t ∧ WritesOnly rd (readReg s rs1 + immWord imm) s t :=
  retire_writesOnly rd _ s

/-- AUIPC adds to its own address, which is where the sequence stands. -/
theorem auipc_writesOnly (rd : RegIdx) (imm : BitVec 20) (s : State) :
    ∃ t, exec (.auipc rd imm) (s.advance 1) = .next t ∧ WritesOnly rd (s.pc + upperWord imm) (s.advance 1) t := by
  have hA : instrAddr (s.advance 1) = s.pc := BitVec.add_sub_cancel _ _
  rw [← hA]
  exact retire_writesOnly rd _ _

theorem jalr_links (rd rs1 : RegIdx) (imm : BitVec 12) (s : State) :
    ∃ t, exec (.jalr rd rs1 imm) s = .next t ∧
      LinksAndJumps rd s.pc ((readReg s rs1 + immWord imm) &&& 0xFFFFFFFE#32) s t :=
  linkAndJump_links rd _ s

theorem execSeq_single_writesOnly {i : Instr} {rd : RegIdx} {v : Word} {s : State}
    (h : ∃ t, exec i (s.advance 1) = .next t ∧ WritesOnly rd v (s.advance 1) t) :
    ∃ t, execSeq [i] s = .next t ∧ WritesOnly rd v (s.advance 1) t := by
  obtain ⟨t, he, hw⟩ := h
  exact ⟨t, execSeq_cons he [], hw⟩

section

variable {i : Instr} {r : RegIdx} {v : Word} {s : State}
variable (h : ∃ t, exec i (s.advance 1) = .next t ∧ WritesOnly r v (s.advance 1) t)
include h

/-- An instruction that puts `v` in a register, and the ADDI of that register to itself. -/
theorem execSeq_addi_writesOnly (imm : BitVec 12) :
    ∃ t, execSeq [i, .addi r r imm] s = .next t ∧ WritesOnly r (v + immWord imm) (s.advance 2) t := by
  obtain ⟨t, he, hw⟩ := h
  obtain ⟨u, hu, hw'⟩ := addi_writesOnly r r imm (t.advance 1)
  have hv : r ≠ 0#5 → readReg (t.advance 1) r + immWord imm = v + immWord imm := fun hr =>
    congrArg (· + immWord imm) (hw.result.trans (if_neg hr))
  exact ⟨u, (execSeq_cons he _).trans (execSeq_cons hu []), writesOnly_congr (writesOnly_trans hw hw') hv⟩

/-- An instruction that puts `v` in a register, and the JALR through that register. -/
theorem execSeq_jalr (hr : r ≠ 0#5) (rd : RegIdx) (imm : BitVec 12) :
    ∃ t, execSeq [i, .jalr rd r imm] s = .next t ∧ t.pc = (v + immWord imm) &&& 0xFFFFFFFE#32 ∧
      readReg t rd = (if rd = 0#5 then 0#32 else s.pc + 8#32) ∧ ∀ q, q ≠ r → q ≠ rd → readReg t q = readReg s q := by
  obtain ⟨t, he, hw⟩ := h
  obtain ⟨u, hu, hj⟩ := jalr_links rd r imm (t.advance 1)
  have hv : readReg (t.advance 1) r = v := hw.result.trans (if_neg hr)
  refine ⟨u, (execSeq_cons he _).trans (execSeq_cons hu []), ?_, ?_, fun q hq hq' => ?_⟩
  · rw [hj.pc, hv]
  · rw [hj.result, advance_pc_of_pc_eq hw.pc]
    rfl
  · exact (hj.regs q hq').trans (hw.regs q hq)

end

/-! ### LI -/

/-- Each of LI's three expansions writes the constant (R94). -/
theorem execSeq_expandLi (rd : RegIdx) (imm : Word) (s : State) :
    ∃ t, execSeq (expandLi rd imm) s = .next t ∧ WritesOnly rd imm (s.advance (expandLi rd imm).length) t := by
  have hsum := upperWord_hi20_add imm
  unfold expandLi
  split
  case isTrue hfits =>
    have hv : readReg (s.advance 1) 0#5 + immWord (lo12 imm) = imm := by
      rw [readReg_x0, BitVec.zero_add]
      exact hfits
    have h := addi_writesOnly rd 0#5 (lo12 imm) (s.advance 1)
    rw [hv] at h
    exact execSeq_single_writesOnly h
  case isFalse =>
    have hlui := lui_writesOnly rd (hi20 imm) (s.advance 1)
    split
    case isTrue hlow =>
      have hv : upperWord (hi20 imm) = imm := by
        simpa [hlow, immWord, sext] using hsum
      rw [hv] at hlui
      exact execSeq_single_writesOnly hlui
    case isFalse =>
      have h := execSeq_addi_writesOnly hlui (lo12 imm)
      rw [hsum] at h
      exact h

/-! ### The pairs that start with AUIPC -/

theorem pc_add_parts (s : State) (off : Word) :
    s.pc + upperWord (hi20 off) + immWord (lo12 off) = s.pc + off := by
  rw [BitVec.add_assoc, upperWord_hi20_add]

theorem execSeq_auipc_addi (rd : RegIdx) (off : Word) (s : State) :
    ∃ t, execSeq [.auipc rd (hi20 off), .addi rd rd (lo12 off)] s = .next t ∧
      WritesOnly rd (s.pc + off) (s.advance 2) t := by
  rw [← pc_add_parts]
  exact execSeq_addi_writesOnly (auipc_writesOnly rd _ s) _

theorem execSeq_auipc_jalr {r : RegIdx} (hr : r ≠ 0#5) (rd : RegIdx) (off : Word) (s : State) :
    ∃ t, execSeq [.auipc r (hi20 off), .jalr rd r (lo12 off)] s = .next t ∧ t.pc = (s.pc + off) &&& 0xFFFFFFFE#32 ∧
      readReg t rd = (if rd = 0#5 then 0#32 else s.pc + 8#32) ∧ ∀ q, q ≠ r → q ≠ rd → readReg t q = readReg s q := by
  rw [← pc_add_parts]
  exact execSeq_jalr (auipc_writesOnly r _ s) hr rd _

end Sys2Proof.Machine

namespace Sys2Proof.Proofs

open Sys2Proof.Machine Sys2Proof.Safety

/-- Settles O49: each of LI's expansions writes the constant and nothing else, from the `pc` past the expansion. -/
theorem liExpansionLoadsTheConstant : Obligations.LiExpansionLoadsTheConstant := by
  intro rd imm s
  obtain ⟨t, ht, hw⟩ := execSeq_expandLi rd imm s
  exact ⟨t, ht, hw.result, hw.regs, hw.mem, hw.port, hw.pc⟩

/-- Settles O50: the upper and lower part of the distance add up from the address of the AUIPC, in rd or in the register
that the JALR goes through. -/
theorem pcRelativeExpansionsReachTheirTarget : Obligations.PcRelativeExpansionsReachTheirTarget := by
  intro rd off s
  refine ⟨?la, ?call, ?tail⟩
  case la =>
    obtain ⟨t, ht, hw⟩ := execSeq_auipc_addi rd off s
    exact ⟨t, ht, hw.result, hw.regs, hw.pc⟩
  case call =>
    obtain ⟨t, ht, hpc, hlink, hregs⟩ := execSeq_auipc_jalr (r := 1#5) (by decide) 1#5 off s
    exact ⟨t, ht, hpc, hlink, fun q hq => hregs q hq hq⟩
  case tail =>
    obtain ⟨t, ht, hpc, -, hregs⟩ := execSeq_auipc_jalr (r := 6#5) (by decide) 0#5 off s
    refine ⟨t, ht, hpc, fun q hq => ?_⟩
    by_cases hq0 : q = 0#5
    · subst hq0
      rw [readReg_x0, readReg_x0]
    · exact hregs q hq hq0

end Sys2Proof.Proofs

/-! SUPPORT. The step family (40_step.md): the fetch's four reads, the next state every step has, what a step reports in each
of its three branches, and `runBatch` as repeated steps. -/

namespace Sys2Proof.Machine

open Sys2Proof.Safety

/-! ### The fetch -/

theorem append_byte_toNat {n : Nat} (hi : BitVec n) (lo : Byte) : (hi ++ lo).toNat = lo.toNat + 256 * hi.toNat := by
  rw [BitVec.toNat_append, ← Nat.shiftLeft_add_eq_or_of_lt lo.isLt, Nat.shiftLeft_eq]
  omega

theorem joinWord_toNat (b0 b1 b2 b3 : Byte) :
    (joinWord b0 b1 b2 b3).toNat = b0.toNat + 256 * b1.toNat + 65536 * b2.toNat + 16777216 * b3.toNat := by
  simp only [joinWord, append_byte_toNat]
  omega

/-- The post-fetch state has the four reads and nothing else on the port, and they give the word (R101). -/
theorem fetchedOnly_afterFetch (s : State) : FetchedOnly s (afterFetch s) := by
  obtain ⟨b0, b1, b2, b3, he, reads⟩ := memRead4_eq s.pc s
  refine ⟨b0, b1, b2, b3, ?log, ?word, reads⟩
  case log =>
    rw [afterFetch, fetch, he]
    rfl
  case word => rw [fetchWord, fetch, he, joinWord_toNat]

/-! ### The next state of a step -/

theorem stopped_of_not_running {s : State} (h : ¬ Running s) : stopped s = true := by
  simpa [← stopped_eq_false_iff] using h

/-- No instruction sets the fault status: the decoder's errors alone do (R203). -/
theorem execEffect_fault {w : Word} {s t : State} (effect : ExecEffect w s t) : t.fault = s.fault := by
  cases effect with
  | alu v => exact writeReg_fault s _ v
  | jump target => exact writeReg_fault s _ _
  | load log v => exact writeReg_fault (s.setPortLog log) _ v
  | storeByte | storeHalf | storeWord => simp [memWrite1, memWrite2, memWrite4]
  | branch | fence | halt => rfl

theorem exists_step (s : State) : ∃ t, step s = .next t := by
  by_cases hr : Running s
  case neg => exact ⟨s, step_of_not_running hr⟩
  cases hd : decodeWord (fetchWord s) with
  | error e => exact ⟨_, step_of_decodeError hr hd⟩
  | ok i =>
    obtain ⟨t, ht, -⟩ := exec_execEffect (decodedFrom_of_decodeWord hd) (afterFetch s)
    exact ⟨t, (step_of_decoded hr hd).trans ht⟩

/-! ### What a step reports -/

@[simp] theorem isHalted_takeFault (e : DecodeError) (s : State) : isHalted (takeFault e s) = isHalted s := rfl
@[simp] theorem faultOutput_takeFault (e : DecodeError) (s : State) : faultOutput (takeFault e s) = (faultOf e).code := rfl

theorem not_running_takeFault (e : DecodeError) (s : State) : ¬ Running (takeFault e s) := by
  rintro ⟨-, hf⟩
  cases e <;> cases hf

/-- The report of a decode error, with what the fault carries (R201, R202). -/
def faultReport : DecodeError → StepReport
  | .decodeFault opcode => .decodeFault opcode
  | .executionFault opcode funct3 => .executionFault opcode funct3

theorem stepReport_of_not_running {s : State} (h : ¬ Running s) : stepReport s = .noop := by
  simp [stepReport, stopped_of_not_running h]

theorem stepReport_of_decodeError {s : State} (h : Running s) {e : DecodeError} (he : decodeWord (fetchWord s) = .error e) :
    stepReport s = faultReport e := by
  cases e <;> simp [stepReport, stopped_eq_false_iff.mpr h, he, faultReport]

theorem stepReport_of_decoded {s t : State} (h : Running s) {i : Instr} (hi : decodeWord (fetchWord s) = .ok i)
    (ht : step s = .next t) : stepReport s = if isHalted t then .halted else .ok := by
  simp [stepReport, stopped_eq_false_iff.mpr h, hi, ht]

/-! ### Several steps -/

theorem run_succ_of_step {s t : State} (h : step s = .next t) (k : Nat) :
    Host.Core.run core (k + 1) s = Host.Core.run core k t := by
  have hc : core.step s = .next t := h
  simp [Host.Core.run, hc]

theorem runBatch_of_not_running {s : State} (h : ¬ Running s) (maxSteps : Nat) : runBatch maxSteps s = .next s := by
  cases maxSteps with
  | zero => rfl
  | succ n => simp [runBatch, stopped_of_not_running h]

theorem runBatch_succ_of_step {s t : State} (hr : Running s) (h : step s = .next t) (n : Nat) :
    runBatch (n + 1) s = runBatch n t := by
  simp [runBatch, stopped_eq_false_iff.mpr hr, h]

end Sys2Proof.Machine

namespace Sys2Proof.Proofs

open Sys2Proof.Machine Sys2Proof.Safety

/-- Settles O11: a stopped core reports NOOP, a decode error reports its own fault and sets its code, and an instruction
leaves the fault status, so the halt flag alone tells HALTED from OK. -/
theorem stepReportsItsOutcome : Obligations.StepReportsItsOutcome := by
  intro s t hStep
  obtain ⟨hn, rfl⟩ | ⟨hr, e, hd, rfl⟩ | ⟨hr, i, hd, he⟩ := step_cases hStep
  · simp [stepReport_of_not_running hn, hn]
  · have hh : isHalted (afterFetch s) = false := hr.1
    have hn := not_running_takeFault e (afterFetch s)
    rw [stepReport_of_decodeError hr hd]
    cases e with
    | decodeFault | executionFault => simp [faultReport, faultOf, FaultStatus.code, hr, hh, hn]
  · have hf : t.fault = .none := (execEffect_fault (execEffect_of_exec hd he)).trans hr.2
    have hout : faultOutput t = 0b00#2 := by rw [faultOutput, hf]; rfl
    have hrun : Running t ↔ isHalted t = false := by simp [Running, isHalted, hf]
    rw [stepReport_of_decoded hr hd hStep]
    cases hh : isHalted t with
    | true | false => simp [hr, hout, hrun, hh]

/-- Settles O20, by induction on `maxSteps`: a stopped core ends the batch at once, and a running one takes one step, after
which the rest of the batch is a batch from the next state. -/
theorem runBatchStopsAtTheFirstStop : Obligations.RunBatchStopsAtTheFirstStop := by
  intro maxSteps
  induction maxSteps with
  | zero => exact fun s => ⟨0, s, le_rfl, rfl, rfl, nofun, nofun⟩
  | succ n ih =>
    intro s
    by_cases hr : Running s
    case neg => exact ⟨0, s, Nat.zero_le _, runBatch_of_not_running hr _, rfl, fun _ => hr, nofun⟩
    obtain ⟨s', hStep⟩ := exists_step s
    obtain ⟨k, t, hk, hBatch, hRun, hEnd, hBefore⟩ := ih s'
    refine ⟨k + 1, t, by omega, (runBatch_succ_of_step hr hStep n).trans hBatch, (run_succ_of_step hStep k).trans hRun,
      fun hlt => hEnd (by omega), fun j hj => ?_⟩
    cases j with
    | zero => exact ⟨s, rfl, hr⟩
    | succ j =>
      rw [run_succ_of_step hStep j]
      exact hBefore j (by omega)

/-- Settles O6: the post-fetch state is the state after the four reads with `pc` moved on, and taking a fault issues no
further port operation. -/
theorem stepRunsTheDecodedInstruction : Obligations.StepRunsTheDecodedInstruction := by
  intro s hr
  refine ⟨⟨fetchedOnly_afterFetch s, ?_, fun _ => rfl, fun _ => rfl, ⟨rfl, rfl⟩, rfl⟩, fun i hd => step_of_decoded hr hd,
    fun e hd => ⟨_, step_of_decodeError hr hd, fetchedOnly_afterFetch s⟩⟩
  exact BitVec.toNat_add s.pc 4#32

/-- Settles O7: such a core is not running. -/
theorem stoppedStepChangesNothing : Obligations.StoppedStepChangesNothing := by
  intro s hStop
  apply step_of_not_running
  rintro ⟨hj, hf⟩
  simp [hj, hf] at hStop

end Sys2Proof.Proofs

/-! SUPPORT. The upper immediates and the jumps (41_upper_and_jumps.md): where A, the sums and the targets lie as numbers, and
that a target is even wherever A is (R124). -/

namespace Sys2Proof.Machine

open Sys2Proof.Safety

/-! ### A, and sums modulo 2^32 -/

/-- The post-fetch `pc` is A + 4 (R16). -/
theorem instrAddr_eq {s : State} {A : Word} (h : s.pc = A + 4#32) : instrAddr s = A := by
  rw [instrAddr, h]
  exact BitVec.add_sub_cancel A 4#32

/-- A sign-extended field adds its signed reading, modulo 2^32. -/
theorem add_sext_toNat {n : Nat} (v : Word) (x : BitVec n) :
    ((v + sext x).toNat : Int) = ((v.toNat : Int) + x.toInt) % 2 ^ 32 := by
  have hx : ((sext x).toNat : Int) = x.toInt % 2 ^ 32 := by
    rw [sext, BitVec.signExtend, BitVec.toNat_ofInt]
    exact Int.toNat_of_nonneg (Int.emod_nonneg _ (by decide))
  rw [BitVec.toNat_add]
  omega

/-- The mask of `indirectTarget` clears bit 0 and no other bit. -/
theorem clearBit0_toNat (v : Word) : (v &&& 0xFFFFFFFE#32).toNat = 2 * (v.toNat / 2) := by
  have hshift : v &&& 0xFFFFFFFE#32 = v >>> 1 <<< 1 := (BitVec.shiftLeft_ushiftRight (x := v) (n := 1)).symm
  have hlt := v.isLt
  rw [hshift, BitVec.toNat_shiftLeft, BitVec.toNat_ushiftRight, Nat.shiftRight_eq_div_pow, Nat.shiftLeft_eq]
  omega

/-! ### The instructions from the post-fetch state at A + 4 -/

section

variable {s : State} {A : Word} (hpc : s.pc = A + 4#32)
include hpc

theorem exec_auipc_writesOnly (rd : RegIdx) (imm : BitVec 20) :
    ∃ t, exec (.auipc rd imm) s = .next t ∧ WritesOnly rd (A + upperWord imm) s t := by
  rw [← instrAddr_eq hpc]
  exact retire_writesOnly rd _ s

theorem exec_jal_links (rd : RegIdx) (off : BitVec 21) :
    ∃ t, exec (.jal rd off) s = .next t ∧ LinksAndJumps rd (A + 4#32) (A + sext off) s t := by
  rw [← hpc, ← instrAddr_eq hpc]
  exact linkAndJump_links rd _ s

theorem exec_jalr_links (rd rs1 : RegIdx) (imm : BitVec 12) :
    ∃ t, exec (.jalr rd rs1 imm) s = .next t ∧
      LinksAndJumps rd (A + 4#32) ((readReg s rs1 + immWord imm) &&& 0xFFFFFFFE#32) s t := by
  rw [← hpc]
  exact jalr_links rd rs1 imm s

end

/-! ### Even addresses -/

theorem evenOffset_iff {n : Nat} (v : BitVec n) : evenOffset v = true ↔ v.toNat % 2 = 0 := by
  simp [evenOffset, BitVec.getLsbD, Nat.testBit_zero]

theorem even_add {v x : Word} (hv : v.toNat % 2 = 0) (hx : x.toNat % 2 = 0) : (v + x).toNat % 2 = 0 := by
  rw [BitVec.toNat_add]
  omega

/-- Sign extension keeps bit 0. -/
theorem even_sext {n : Nat} {off : BitVec n} (hn : 0 < n) (h : evenOffset off = true) : (sext off).toNat % 2 = 0 := by
  rw [← evenOffset_iff, ← h, evenOffset, sext, BitVec.getLsbD_signExtend]
  simp [evenOffset, hn]

/-- The target of a branch or of JAL (R122, R130). -/
theorem even_instrAddr_add_sext {n : Nat} {off : BitVec n} {s : State} (hs : s.pc.toNat % 2 = 0) (hn : 0 < n)
    (h : evenOffset off = true) : (instrAddr s + sext off).toNat % 2 = 0 := by
  have hA : (instrAddr s).toNat % 2 = 0 := by
    rw [instrAddr, BitVec.toNat_sub, BitVec.toNat_ofNat]
    omega
  exact even_add hA (even_sext hn h)

/-- The target of JALR (R123), whatever rs1 holds. -/
theorem even_indirectTarget (s : State) (rs1 : RegIdx) (imm : BitVec 12) : (indirectTarget s rs1 imm).toNat % 2 = 0 := by
  rw [indirectTarget, clearBit0_toNat]
  exact Nat.mul_mod_right 2 _

theorem even_pc_branchIf {s t : State} {cond : Bool} {off : BitVec 13} (hs : s.pc.toNat % 2 = 0)
    (hoff : evenOffset off = true) (he : branchIf cond off s = .next t) : t.pc.toNat % 2 = 0 := by
  cases cond with
  | true =>
    cases he
    exact even_instrAddr_add_sext hs (by decide) hoff
  | false =>
    cases he
    exact hs

/-- BRANCH and JAL go from A by an even offset, JALR clears bit 0, and every other instruction leaves `pc`. -/
theorem even_pc_exec {i : Instr} {s t : State} (hwf : i.wf = true) (hs : s.pc.toNat % 2 = 0) (he : exec i s = .next t) :
    t.pc.toNat % 2 = 0 := by
  cases i with
  | jal rd off =>
    cases he
    exact even_instrAddr_add_sext hs (by decide) hwf
  | jalr rd rs1 imm =>
    cases he
    exact even_indirectTarget s rs1 imm
  | beq | bne | blt | bge | bltu | bgeu => exact even_pc_branchIf hs hwf he
  | sb | sh | sw =>
    cases he
    simpa [memWrite1, memWrite2, memWrite4] using hs
  | fence | ecall | ebreak =>
    cases he
    exact hs
  | _ =>
    cases he
    rw [writeReg_pc]
    exact hs

end Sys2Proof.Machine

namespace Sys2Proof.Proofs

open Sys2Proof.Machine Sys2Proof.Safety

/-- Settles O16: the fetch adds 4, and a decoded offset is even, since no bit of the word gives its bit 0. -/
theorem evenPcStaysEven : Obligations.EvenPcStaysEven := by
  intro s t hs hStep
  have hFetch : (afterFetch s).pc.toNat % 2 = 0 := even_add hs (by decide)
  obtain ⟨-, rfl⟩ | ⟨-, e, -, rfl⟩ | ⟨-, i, hd, he⟩ := step_cases hStep
  · exact hs
  · exact hFetch
  · exact even_pc_exec (wf_of_decodedFrom (decodedFrom_of_decodeWord hd)) hFetch he

/-- Settles O29: the upper immediate is the 20 bits shifted into place. -/
theorem luiLoadsTheUpperImmediate : Obligations.LuiLoadsTheUpperImmediate := by
  refine ⟨fun w (ho : opcodeOf w = 0x37#7) => ?_, fun rd imm s => ?_⟩
  · exact decodeWord_of_decodedFrom (i := .lui (rdOf w) (immUOf w)) ⟨ho, rfl, rfl⟩ (by simp [ho])
  · obtain ⟨t, ht, hw⟩ := lui_writesOnly rd imm s
    exact ⟨t, _, ht, hw, upperWord_toNat imm⟩

/-- Settles O30: the base is A, which is the post-fetch `pc` less 4. -/
theorem auipcAddsTheUpperImmediateToItsAddress : Obligations.AuipcAddsTheUpperImmediateToItsAddress := by
  refine ⟨fun w (ho : opcodeOf w = 0x17#7) => ?_, fun rd imm s A hpc => ?_⟩
  · exact decodeWord_of_decodedFrom (i := .auipc (rdOf w) (immUOf w)) ⟨ho, rfl, rfl⟩ (by simp [ho])
  · obtain ⟨t, ht, hw⟩ := exec_auipc_writesOnly hpc rd imm
    refine ⟨t, _, ht, hw, ?_⟩
    rw [BitVec.toNat_add, upperWord_toNat]
    rfl

/-- Settles O31: the link is the post-fetch `pc`, and the target is A plus the sign-extended offset. -/
theorem jalLinksAndJumps : Obligations.JalLinksAndJumps := by
  refine ⟨fun w (ho : opcodeOf w = 0x6F#7) => ?_, fun rd off s A hpc => ?_⟩
  · exact decodeWord_of_decodedFrom (i := .jal (rdOf w) (immJOf w)) ⟨ho, rfl, rfl⟩ (by simp [ho])
  · obtain ⟨t, ht, hj⟩ := exec_jal_links hpc rd off
    exact ⟨t, _, ht, hj, add_sext_toNat A off⟩

/-- Settles O32: the target is computed from the state before the link is written, and clearing bit 0 rounds the sum down to
an even number; the dispatch table has no entry for another funct3. -/
theorem jalrLinksAndJumpsToTheEvenSum : Obligations.JalrLinksAndJumpsToTheEvenSum := by
  refine ⟨fun w hkey => ?decode, fun w funct3 hkey hne => ?fault, fun rd rs1 imm s A hpc => ?exec⟩
  case decode =>
    obtain ⟨ho, hf⟩ : opcodeOf w = 0x67#7 ∧ funct3Of w = 0#3 := hkey
    exact decodeWord_of_decodedFrom (i := .jalr (rdOf w) (rs1Of w) (immIOf w)) ⟨ho, hf, rfl, rfl, rfl⟩ (by simp [ho])
  case fault =>
    obtain ⟨ho, rfl⟩ := hkey
    have hUnmapped : UnmappedKey w := .inl ⟨ho, hne⟩
    exact decodeWord_eq_executionFault_iff.mpr ⟨dispatch_eq_none_iff_unmappedKey.mpr hUnmapped, ho, rfl⟩
  case exec =>
    obtain ⟨t, ht, hj⟩ := exec_jalr_links hpc rd rs1 imm
    refine ⟨t, _, ht, hj, ?_⟩
    rw [clearBit0_toNat, ← add_sext_toNat]
    rfl

end Sys2Proof.Proofs

/-! SUPPORT. The branches (42_branches.md): their words, their shared effect from A, and the conditions as comparisons of
numbers. -/

namespace Sys2Proof.Machine

open Sys2Proof.Safety

/-- A BRANCH word decodes to what its funct3 selects, with the scattered offset (R82, R87). -/
theorem decodeWord_branch {w : Word} {funct3 : BitVec 3} {i : Instr} (hkey : KeyIs w 0x63#7 funct3)
    (hi : dispatchBranch funct3 (rs1Of w) (rs2Of w) (immBOf w) = some i) : decodeWord w = .ok i := by
  obtain ⟨ho, rfl⟩ : opcodeOf w = 0x63#7 ∧ funct3Of w = funct3 := hkey
  rw [decodeWord_eq_ok_iff, ← hi]
  simp [dispatch, ho]

/-! ### The conditions -/

theorem wordEq_eq_decide (a b : Word) : (a == b) = decide (a.toNat = b.toNat) := by
  rw [Bool.beq_eq_decide_eq, decide_eq_decide]
  exact BitVec.toNat_inj.symm

theorem ltSigned_eq_decide (a b : Word) : ltSigned a b = decide (a.toInt < b.toInt) := rfl

theorem ltUnsigned_eq_decide (a b : Word) : ltUnsigned a b = decide (a.toNat < b.toNat) := rfl

/-! ### The effect from the post-fetch state at A + 4 -/

section

variable {s : State} {A : Word} (hpc : s.pc = A + 4#32)
include hpc

theorem branchIf_setsPc_from (cond : Bool) (off : BitVec 13) :
    ∃ t, branchIf cond off s = .next t ∧ SetsPcOnly (if cond then A + sext off else A + 4#32) s t := by
  rw [← hpc, ← instrAddr_eq hpc]
  exact branchIf_setsPc cond off s

/-- Two branches with opposite conditions: where one is taken the other falls through, and their target is the same (R130). -/
theorem opposite_branches_setPc {cond : Bool} {P : Prop} [Decidable P] (hcond : cond = decide P) (off : BitVec 13) :
    ∃ t u taken, (taken.toNat : Int) = ((A.toNat : Int) + off.toInt) % 2 ^ 32 ∧
      branchIf cond off s = .next t ∧ SetsPcOnly (if P then taken else A + 4#32) s t ∧
      branchIf (!cond) off s = .next u ∧ SetsPcOnly (if P then A + 4#32 else taken) s u := by
  obtain ⟨t, ht, hSets⟩ := branchIf_setsPc_from hpc cond off
  obtain ⟨u, hu, hOpposite⟩ := branchIf_setsPc_from hpc (!cond) off
  refine ⟨t, u, A + sext off, add_sext_toNat A off, ht, ?_, hu, ?_⟩
  · simpa [hcond] using hSets
  · simpa [hcond] using hOpposite

end

end Sys2Proof.Machine

namespace Sys2Proof.Proofs

open Sys2Proof.Machine Sys2Proof.Safety

/-- Settles O33: BNE has the condition of BEQ negated, and words are equal exactly when their readings are. -/
theorem equalityBranches : Obligations.EqualityBranches := by
  refine ⟨fun w => ⟨fun hkey => ?beq, fun hkey => ?bne⟩, fun rs1 rs2 off s A hpc => ?exec⟩
  case beq | bne => exact decodeWord_branch hkey rfl
  case exec => exact opposite_branches_setPc hpc (wordEq_eq_decide _ _) off

/-- Settles O34: BGE has the condition of BLT negated, which compares the two's-complement readings. -/
theorem signedBranches : Obligations.SignedBranches := by
  refine ⟨fun w => ⟨fun hkey => ?blt, fun hkey => ?bge⟩, fun rs1 rs2 off s A hpc => ?exec⟩
  case blt | bge => exact decodeWord_branch hkey rfl
  case exec => exact opposite_branches_setPc hpc (ltSigned_eq_decide _ _) off

/-- Settles O35: BGEU has the condition of BLTU negated, which compares the unsigned readings. -/
theorem unsignedBranches : Obligations.UnsignedBranches := by
  refine ⟨fun w => ⟨fun hkey => ?bltu, fun hkey => ?bgeu⟩, fun rs1 rs2 off s A hpc => ?exec⟩
  case bltu | bgeu => exact decodeWord_branch hkey rfl
  case exec => exact opposite_branches_setPc hpc (ltUnsigned_eq_decide _ _) off

end Sys2Proof.Proofs

/-! SUPPORT. The loads and stores (43_loads_stores.md): their words, the effective address as a number, and what a load of 1, 2
or 4 bytes leaves under either extension. -/

namespace Sys2Proof.Machine

open Sys2Proof.Safety

/-- A LOAD word decodes to what its funct3 selects (R80, R87). -/
theorem decodeWord_load {w : Word} {funct3 : BitVec 3} {i : Instr} (hkey : KeyIs w 0x03#7 funct3)
    (hi : dispatchLoad funct3 (rdOf w) (rs1Of w) (immIOf w) = some i) : decodeWord w = .ok i := by
  obtain ⟨ho, rfl⟩ : opcodeOf w = 0x03#7 ∧ funct3Of w = funct3 := hkey
  rw [decodeWord_eq_ok_iff, ← hi]
  simp [dispatch, ho]

/-- A STORE word decodes to what its funct3 selects, with the split immediate (R81, R87). -/
theorem decodeWord_store {w : Word} {funct3 : BitVec 3} {i : Instr} (hkey : KeyIs w 0x23#7 funct3)
    (hi : dispatchStore funct3 (rs2Of w) (rs1Of w) (immSOf w) = some i) : decodeWord w = .ok i := by
  obtain ⟨ho, rfl⟩ : opcodeOf w = 0x23#7 ∧ funct3Of w = funct3 := hkey
  rw [decodeWord_eq_ok_iff, ← hi]
  simp [dispatch, ho]

/-- Base plus signed displacement, modulo 2^32 (R140). -/
theorem effAddr_toNat (s : State) (rs1 : RegIdx) (imm : BitVec 12) :
    ((effAddr s rs1 imm).toNat : Int) = (((readReg s rs1).toNat : Int) + imm.toInt) % 2 ^ 32 :=
  add_sext_toNat (readReg s rs1) imm

/-! ### Loads, for any extension of the bytes read -/

theorem loadInto_memRead1_loadsOnly (rd : RegIdx) (ext : Byte → Word) (a : Word) (s : State) :
    ∃ t b0, loadInto rd ext (memRead1 a s) = .next t ∧ LoadsOnly rd (ext b0) [.read a b0] s t ∧ ReadFrom s a b0 := by
  obtain ⟨t, ht, hLoads⟩ := loadInto_loads rd ext (portByte s a) [.read a (portByte s a)] s
  exact ⟨t, portByte s a, ht, hLoads, portByte_of_storage⟩

theorem loadInto_memRead2_loadsOnly (rd : RegIdx) (ext : BitVec 16 → Word) (a : Word) (s : State) :
    ∃ t b0 b1, loadInto rd ext (memRead2 a s) = .next t ∧
      LoadsOnly rd (ext (joinHalf b0 b1)) [.read (a + 1#32) b1, .read a b0] s t ∧
      ReadFrom s a b0 ∧ ReadFrom s (a + 1#32) b1 := by
  obtain ⟨b0, b1, he, reads⟩ := memRead2_eq a s
  rw [he]
  obtain ⟨t, ht, hLoads⟩ := loadInto_loads rd ext (joinHalf b0 b1) _ s
  exact ⟨t, b0, b1, ht, hLoads, reads⟩

theorem loadInto_memRead4_loadsOnly (rd : RegIdx) (ext : Word → Word) (a : Word) (s : State) :
    ∃ t b0 b1 b2 b3, loadInto rd ext (memRead4 a s) = .next t ∧
      LoadsOnly rd (ext (joinWord b0 b1 b2 b3)) (fetchReads a b0 b1 b2 b3) s t ∧
      ReadFrom s a b0 ∧ ReadFrom s (a + 1#32) b1 ∧ ReadFrom s (a + 2#32) b2 ∧ ReadFrom s (a + 3#32) b3 := by
  obtain ⟨b0, b1, b2, b3, he, reads⟩ := memRead4_eq a s
  rw [he]
  obtain ⟨t, ht, hLoads⟩ := loadInto_loads rd ext (joinWord b0 b1 b2 b3) _ s
  exact ⟨t, b0, b1, b2, b3, ht, hLoads, reads⟩

/-! ### Signed readings -/

theorem sext_toInt {n : Nat} (hn : n ≤ 32) (v : BitVec n) : (sext v).toInt = v.toInt :=
  BitVec.toInt_signExtend_of_le hn

/-- The high byte alone carries the sign of a halfword. -/
theorem joinHalf_toInt (b0 b1 : Byte) : (joinHalf b0 b1).toInt = b0.toNat + 256 * b1.toInt := by
  have hlow := b0.isLt
  have hjoin := joinHalf_toNat b0 b1
  rw [BitVec.toInt_eq_toNat_cond, BitVec.toInt_eq_toNat_cond]
  omega

end Sys2Proof.Machine

namespace Sys2Proof.Proofs

open Sys2Proof.Machine Sys2Proof.Safety

/-- Settles O36: sign extension keeps the signed reading of the byte or of the two joined bytes. -/
theorem signedLoads : Obligations.SignedLoads := by
  refine ⟨fun w => ⟨fun hkey => ?lbWord, fun hkey => ?lhWord⟩,
    fun rd rs1 imm s => ⟨effAddr s rs1 imm, effAddr_toNat s rs1 imm, ?lb, ?lh⟩⟩
  case lbWord | lhWord => exact decodeWord_load hkey rfl
  case lb =>
    obtain ⟨t, b0, ht, hLoads, read⟩ := loadInto_memRead1_loadsOnly rd sext (effAddr s rs1 imm) s
    exact ⟨t, _, b0, ht, hLoads, read, sext_toInt (by decide) b0⟩
  case lh =>
    obtain ⟨t, b0, b1, ht, hLoads, read0, read1⟩ := loadInto_memRead2_loadsOnly rd sext (effAddr s rs1 imm) s
    refine ⟨t, _, b0, b1, ht, hLoads, read0, read1, ?_⟩
    rw [sext_toInt (by decide), joinHalf_toInt]

/-- Settles O37: zero extension keeps the unsigned reading of the joined bytes, and a word is not extended at all. -/
theorem wordAndUnsignedLoads : Obligations.WordAndUnsignedLoads := by
  refine ⟨fun w => ⟨fun hkey => ?lwWord, fun hkey => ?lbuWord, fun hkey => ?lhuWord⟩,
    fun rd rs1 imm s => ⟨effAddr s rs1 imm, effAddr_toNat s rs1 imm, ?lw, ?lbu, ?lhu⟩⟩
  case lwWord | lbuWord | lhuWord => exact decodeWord_load hkey rfl
  case lw =>
    obtain ⟨t, b0, b1, b2, b3, ht, hLoads, read0, read1, read2, read3⟩ :=
      loadInto_memRead4_loadsOnly rd zext (effAddr s rs1 imm) s
    refine ⟨t, _, b0, b1, b2, b3, ht, hLoads, read0, read1, read2, read3, ?_⟩
    rw [zext_toNat (by decide), joinWord_toNat]
  case lbu =>
    obtain ⟨t, b0, ht, hLoads, read⟩ := loadInto_memRead1_loadsOnly rd zext (effAddr s rs1 imm) s
    exact ⟨t, _, b0, ht, hLoads, read, zext_toNat (by decide) b0⟩
  case lhu =>
    obtain ⟨t, b0, b1, ht, hLoads, read0, read1⟩ := loadInto_memRead2_loadsOnly rd zext (effAddr s rs1 imm) s
    refine ⟨t, _, b0, b1, ht, hLoads, read0, read1, ?_⟩
    rw [zext_toNat (by decide), joinHalf_toNat]

/-- Settles O38: each store is the port's write of its width, which lands byte by byte. -/
theorem storesWriteTheLowBytes : Obligations.StoresWriteTheLowBytes := by
  refine ⟨fun w => ⟨fun hkey => ?sbWord, fun hkey => ?shWord, fun hkey => ?swWord⟩,
    fun rs2 rs1 imm s hm => ⟨effAddr_toNat s rs1 imm, ?sb, ?sh, ?sw⟩⟩
  case sbWord | shWord | swWord => exact decodeWord_store hkey rfl
  case sb => exact ⟨_, rfl, storesOnly_memWrite1 _ _ s hm⟩
  case sh => exact ⟨_, rfl, storesOnly_memWrite2 _ _ s hm⟩
  case sw => exact ⟨_, rfl, storesOnly_memWrite4 _ _ s hm⟩

end Sys2Proof.Proofs

/-! SUPPORT. The operations with an immediate (44_alu_immediate.md): their words, an instruction that only writes rd, the
sign-extended immediate bit by bit and as a number, and the comparison results and shifts as numbers. -/

namespace Sys2Proof.Machine

open Sys2Proof.Safety

/-- An OP-IMM word decodes to what its funct3, and for 101 its w[30], selects (R87, R150). -/
theorem decodeWord_opImm {w : Word} {funct3 : BitVec 3} {alt : Bool} {i : Instr} (hkey : KeyIs w 0x13#7 funct3)
    (ha : altBitOf w = alt) (hi : dispatchOpImm funct3 alt (rdOf w) (rs1Of w) (immIOf w) (shamtOf w) = some i) :
    decodeWord w = .ok i := by
  obtain ⟨ho, rfl⟩ : opcodeOf w = 0x13#7 ∧ funct3Of w = funct3 := hkey
  rw [decodeWord_eq_ok_iff, ← hi, ← ha]
  simp [dispatch, ho]

/-- Retiring with a value of which `P` holds writes a value of which `P` holds, and nothing else. -/
theorem retire_writes_value {P : Word → Prop} {v : Word} (hv : P v) (rd : RegIdx) (s : State) :
    ∃ t u, retire rd v s = .next t ∧ WritesOnly rd u s t ∧ P u := by
  obtain ⟨t, ht, hw⟩ := retire_writesOnly rd v s
  exact ⟨t, v, ht, hw, hv⟩

/-! ### The sign-extended immediate -/

theorem sext_toNat {n : Nat} (v : BitVec n) : ((sext v).toNat : Int) = v.toInt % 2 ^ 32 := by
  simpa using add_sext_toNat 0#32 v

/-- Bit 11 stands for every higher bit (R80). -/
theorem getLsbD_immWord (imm : BitVec 12) {k : Nat} (hk : k < 32) :
    (immWord imm).getLsbD k = imm.getLsbD (min k 11) := by
  rw [immWord, sext, BitVec.getLsbD_signExtend]
  by_cases hlow : k < 12
  · simp [hk, hlow, Nat.min_eq_left (show k ≤ 11 by omega)]
  · simp [hk, hlow, Nat.min_eq_right (show 11 ≤ k by omega), BitVec.msb_eq_getLsbD_last]

/-! ### Comparison results -/

theorem boolWord_decide_toNat (P : Prop) [Decidable P] : (boolWord (decide P)).toNat = bitOf P := by
  by_cases h : P <;> simp [boolWord, bitOf, h]

theorem boolWord_ltSigned_toNat (a b : Word) : (boolWord (ltSigned a b)).toNat = bitOf (a.toInt < b.toInt) := by
  rw [ltSigned_eq_decide, boolWord_decide_toNat]

theorem boolWord_ltUnsigned_toNat (a b : Word) : (boolWord (ltUnsigned a b)).toNat = bitOf (a.toNat < b.toNat) := by
  rw [ltUnsigned_eq_decide, boolWord_decide_toNat]

theorem bitOf_congr {P Q : Prop} [Decidable P] [Decidable Q] (h : P ↔ Q) : bitOf P = bitOf Q := by
  simp [bitOf, h]

/-! ### Shifts -/

theorem shiftLeft_toNat_eq_mul (v : Word) (n : Nat) : (v <<< n).toNat = v.toNat * 2 ^ n % 2 ^ 32 := by
  rw [BitVec.toNat_shiftLeft, Nat.shiftLeft_eq]

theorem ushiftRight_toNat_eq_div (v : Word) (n : Nat) : (v >>> n).toNat = v.toNat / 2 ^ n := by
  rw [BitVec.toNat_ushiftRight, Nat.shiftRight_eq_div_pow]

/-- An arithmetic shift divides the signed reading, rounding down. -/
theorem sshiftRight_toInt_eq_div (v : Word) (n : Nat) : (v.sshiftRight n).toInt = v.toInt / 2 ^ n := by
  rw [BitVec.toInt_sshiftRight, Int.shiftRight_eq_div_pow]
  norm_cast

end Sys2Proof.Machine

namespace Sys2Proof.Proofs

open Sys2Proof.Machine Sys2Proof.Safety

/-- Settles O39: a sign-extended immediate adds its signed reading. -/
theorem addiAddsTheSignExtendedImmediate : Obligations.AddiAddsTheSignExtendedImmediate := by
  refine ⟨fun w hkey => ?addiWord, fun rd rs1 imm s => ?addi⟩
  case addiWord => exact decodeWord_opImm hkey rfl rfl
  case addi => exact retire_writes_value (add_sext_toNat (readReg s rs1) imm) rd s

/-- Settles O40: sign extension keeps the signed reading, and takes the unsigned one modulo 2^32. -/
theorem setLessThanImmediate : Obligations.SetLessThanImmediate := by
  refine ⟨fun w => ⟨fun hkey => ?sltiWord, fun hkey => ?sltiuWord⟩, fun rd rs1 imm s => ⟨?slti, ?sltiu⟩⟩
  case sltiWord | sltiuWord => exact decodeWord_opImm hkey rfl rfl
  case slti =>
    refine retire_writes_value ?_ rd s
    rw [boolWord_ltSigned_toNat, immWord, sext_toInt (by decide)]
  case sltiu =>
    refine retire_writes_value ?_ rd s
    rw [boolWord_ltUnsigned_toNat, ← sext_toNat]
    exact bitOf_congr Int.ofNat_lt.symm

/-- Settles O41: the operations act bit by bit, and so does sign extension. -/
theorem logicImmediate : Obligations.LogicImmediate := by
  refine ⟨fun w => ⟨fun hkey => ?xoriWord, fun hkey => ?oriWord, fun hkey => ?andiWord⟩,
    fun rd rs1 imm s => ⟨?xori, ?ori, ?andi⟩⟩
  case xoriWord | oriWord | andiWord => exact decodeWord_opImm hkey rfl rfl
  case xori =>
    refine retire_writes_value (fun k hk => ?_) rd s
    rw [BitVec.getLsbD_xor, getLsbD_immWord imm hk, Bool.bne_eq_xor]
  case ori =>
    refine retire_writes_value (fun k hk => ?_) rd s
    rw [BitVec.getLsbD_or, getLsbD_immWord imm hk]
  case andi =>
    refine retire_writes_value (fun k hk => ?_) rd s
    rw [BitVec.getLsbD_and, getLsbD_immWord imm hk]

/-- Settles O42: w[30] tells SRLI from SRAI, and each shift multiplies or divides by the power of two. -/
theorem shiftImmediate : Obligations.ShiftImmediate := by
  refine ⟨fun w => ⟨fun hkey => ?slliWord, fun hkey ha => ?srliWord, fun hkey ha => ?sraiWord⟩,
    fun rd rs1 shamt s => ⟨?slli, ?srli, ?srai⟩⟩
  case slliWord => exact decodeWord_opImm hkey rfl rfl
  case srliWord | sraiWord => exact decodeWord_opImm hkey ha rfl
  case slli => exact retire_writes_value (shiftLeft_toNat_eq_mul _ _) rd s
  case srli => exact retire_writes_value (ushiftRight_toNat_eq_div _ _) rd s
  case srai => exact retire_writes_value (sshiftRight_toInt_eq_div _ _) rd s

end Sys2Proof.Proofs

/-! SUPPORT. The operations on two registers (45_alu_register.md): their words, the multiply and divide words among them, and
the difference and the shift amount as numbers. -/

namespace Sys2Proof.Machine

open Sys2Proof.Safety

/-- An OP word decodes to what its funct3, and for 000 and 101 its w[30], selects (R87, R165). -/
theorem decodeWord_op {w : Word} {funct3 : BitVec 3} {alt : Bool} {i : Instr} (hkey : KeyIs w 0x33#7 funct3)
    (ha : altBitOf w = alt) (hi : dispatchOp funct3 alt (rdOf w) (rs1Of w) (rs2Of w) = some i) : decodeWord w = .ok i := by
  obtain ⟨ho, rfl⟩ : opcodeOf w = 0x33#7 ∧ funct3Of w = funct3 := hkey
  subst ha
  exact decodeWord_of_decodedFrom (decodedFrom_of_dispatchOp ho hi) (by simp [ho])

/-- w[30] is bit 5 of funct7 (R73, R86). -/
theorem altBitOf_eq_funct7_bit (w : Word) : altBitOf w = (w.extractLsb' 25 7).getLsbD 5 := by
  simp [altBitOf]

/-- A difference of words is the difference of their readings, modulo 2^32. -/
theorem sub_toNat_eq_emod (a b : Word) : ((a - b).toNat : Int) = ((a.toNat : Int) - b.toNat) % 2 ^ 32 := by
  have ha := a.isLt
  have hb := b.isLt
  rw [BitVec.toNat_sub]
  omega

/-- The mask of the shift amount takes the low 5 bits (R165). -/
theorem shamtReg_eq_mod (v : Word) : shamtReg v = v.toNat % 32 := by
  rw [shamtReg, BitVec.toNat_and]
  exact Nat.and_two_pow_sub_one_eq_mod v.toNat 5

end Sys2Proof.Machine

namespace Sys2Proof.Proofs

open Sys2Proof.Machine Sys2Proof.Safety

/-- Settles O27: no bit of funct7 but w[30] is examined, and funct7 0000001 has it 0. -/
theorem multiplyDivideWordsRunAsBaseOperations : Obligations.MultiplyDivideWordsRunAsBaseOperations := by
  intro w ho hfunct7 rd rs1 rs2
  have ha : altBitOf w = false := by
    rw [altBitOf_eq_funct7_bit, hfunct7]
    rfl
  refine ⟨fun hf => ?add, fun hf => ?sll, fun hf => ?slt, fun hf => ?sltu, fun hf => ?xor, fun hf => ?srl, fun hf => ?or,
    fun hf => ?and⟩
  case add | sll | slt | sltu | xor | srl | or | and => exact decodeWord_op ⟨ho, hf⟩ ha rfl

/-- Settles O43: w[30] tells ADD from SUB, and both wrap modulo 2^32. -/
theorem addAndSubtractWrap : Obligations.AddAndSubtractWrap := by
  refine ⟨fun w hkey => ⟨fun ha => ?addWord, fun ha => ?subWord⟩, fun rd rs1 rs2 s => ⟨?add, ?sub⟩⟩
  case addWord | subWord => exact decodeWord_op hkey ha rfl
  case add => exact retire_writes_value (BitVec.toNat_add _ _) rd s
  case sub => exact retire_writes_value (sub_toNat_eq_emod _ _) rd s

/-- Settles O44: SLT compares the two's-complement readings, SLTU the unsigned ones. -/
theorem setLessThanRegister : Obligations.SetLessThanRegister := by
  refine ⟨fun w => ⟨fun hkey => ?sltWord, fun hkey => ?sltuWord⟩, fun rd rs1 rs2 s => ⟨?slt, ?sltu⟩⟩
  case sltWord | sltuWord => exact decodeWord_op hkey rfl rfl
  case slt => exact retire_writes_value (boolWord_ltSigned_toNat _ _) rd s
  case sltu => exact retire_writes_value (boolWord_ltUnsigned_toNat _ _) rd s

/-- Settles O45: the operations act bit by bit. -/
theorem logicRegister : Obligations.LogicRegister := by
  refine ⟨fun w => ⟨fun hkey => ?xorWord, fun hkey => ?orWord, fun hkey => ?andWord⟩,
    fun rd rs1 rs2 s => ⟨?xor, ?or, ?and⟩⟩
  case xorWord | orWord | andWord => exact decodeWord_op hkey rfl rfl
  case xor =>
    refine retire_writes_value (fun k hk => ?_) rd s
    rw [BitVec.getLsbD_xor, Bool.bne_eq_xor]
  case or => exact retire_writes_value (fun _ _ => BitVec.getLsbD_or) rd s
  case and => exact retire_writes_value (fun _ _ => BitVec.getLsbD_and) rd s

/-- Settles O46: w[30] tells SRL from SRA, and each shift multiplies or divides by the power of two that the low 5 bits of rs2
give. -/
theorem shiftRegister : Obligations.ShiftRegister := by
  refine ⟨fun w => ⟨fun hkey => ?sllWord, fun hkey ha => ?srlWord, fun hkey ha => ?sraWord⟩, fun rd rs1 rs2 s => ?exec⟩
  case sllWord => exact decodeWord_op hkey rfl rfl
  case srlWord | sraWord => exact decodeWord_op hkey ha rfl
  case exec =>
    rw [← shamtReg_eq_mod (readReg s rs2)]
    refine ⟨?sll, ?srl, ?sra⟩
    case sll => exact retire_writes_value (shiftLeft_toNat_eq_mul _ _) rd s
    case srl => exact retire_writes_value (ushiftRight_toNat_eq_div _ _) rd s
    case sra => exact retire_writes_value (sshiftRight_toInt_eq_div _ _) rd s

end Sys2Proof.Proofs

/-! SUPPORT. FENCE and the system-call class (46_fence_system.md): the halt flag under each shape of an instruction's effect,
and the step of a SYSTEM word. -/

namespace Sys2Proof.Machine

open Sys2Proof.Safety

/-- The halting shape alone sets the flag, and it stands under opcode 0x73 (R26, R193). -/
theorem execEffect_jammed {w : Word} {s t : State} (effect : ExecEffect w s t) (hop : opcodeOf w ≠ 0x73#7) :
    t.jammed = s.jammed := by
  cases effect with
  | alu v => exact writeReg_jammed s _ v
  | jump target => exact writeReg_jammed s _ _
  | load log v => exact writeReg_jammed (s.setPortLog log) _ v
  | storeByte | storeHalf | storeWord => simp [memWrite1, memWrite2, memWrite4]
  | branch | fence => rfl
  | halt op => exact absurd op hop

/-- A SYSTEM word of either name halts the core in its post-fetch state (R191, R192). -/
theorem step_of_system {s : State} (hr : Running s) (ho : opcodeOf (fetchWord s) = 0x73#7) :
    step s = .next (halt (afterFetch s)) := by
  rw [step_of_decoded hr (decodeWord_system ho), exec_dispatchSystem]
  rfl

end Sys2Proof.Machine

namespace Sys2Proof.Proofs

open Sys2Proof.Machine Sys2Proof.Safety

/-- Settles O12: a SYSTEM word halts the core in its post-fetch state; a fault of the decoder and the effect of every other
word keep the halt flag, which is clear in a running core. -/
theorem systemWordsHaltAndNoOtherWordDoes : Obligations.SystemWordsHaltAndNoOtherWordDoes := by
  refine fun s hr => ⟨fun ho => ?system, fun t ho hStep => ?other⟩
  case system =>
    exact ⟨_, step_of_system hr ho, rfl, hr.2, rfl, fun _ => rfl, fun _ => rfl, rfl, fetchedOnly_afterFetch s⟩
  case other =>
    obtain ⟨hn, -⟩ | ⟨-, e, -, rfl⟩ | ⟨-, i, hd, he⟩ := step_cases hStep
    · exact absurd hr hn
    · exact hr.1
    · exact (execEffect_jammed (execEffect_of_exec hd he) ho).trans hr.1

/-- Settles O47: the opcode alone selects FENCE, and its next state is the state it starts from. -/
theorem fenceDoesNothing : Obligations.FenceDoesNothing := by
  refine ⟨fun w ho => ?word, fun s => ?exec⟩
  case word =>
    replace ho : opcodeOf w = 0x0F#7 := ho
    exact decodeWord_of_decodedFrom (i := .fence) ho (by simp [ho])
  case exec => exact ⟨s, rfl, rfl, fun _ => rfl, ⟨rfl, rfl⟩, fun _ => rfl, rfl, rfl⟩

/-- Settles O48: the opcode alone selects a SYSTEM instruction, and both names have the next state `halt s`. -/
theorem ecallAndEbreakHalt : Obligations.EcallAndEbreakHalt := by
  refine ⟨fun w ho => ?word, fun s => ?exec⟩
  case word =>
    rw [decodeWord_system ho, dispatchSystem]
    split
    case isTrue => exact .inr rfl
    case isFalse => exact .inl rfl
  case exec => exact ⟨halt s, rfl, rfl, rfl, rfl, rfl, fun _ => rfl, fun _ => rfl, rfl, rfl⟩

end Sys2Proof.Proofs

/-! SUPPORT. Faults (60_exceptions.md): the keys the decoder raises each fault on, the whole effect of taking one, and the
events a decoded instruction leaves possible. -/

namespace Sys2Proof.Machine

open Sys2Proof.Safety

/-- Outside the shape table no other bit of the word is examined (R201). -/
theorem decodeWord_of_not_mem_shapeOpcodes {w : Word} (ho : w.extractLsb' 0 7 ∉ shapeOpcodes) :
    decodeWord w = .error (.decodeFault (w.extractLsb' 0 7)) :=
  decodeWord_eq_decodeFault_iff.mpr ⟨(shapeOf_eq_none_iff _).mpr ho, rfl⟩

/-- A key missing from the dispatch table faults with that key (R88, R202). -/
theorem decodeWord_of_unmappedKey {w : Word} (hkey : UnmappedKey w) :
    decodeWord w = .error (.executionFault (w.extractLsb' 0 7) (w.extractLsb' 12 3)) :=
  decodeWord_eq_executionFault_iff.mpr ⟨dispatch_eq_none_iff_unmappedKey.mpr hkey, rfl, rfl⟩

/-- Either fault sets its status in the post-fetch state and leaves everything else as the fetch left it (R203). -/
theorem faultsOnly_takeFault_afterFetch (e : DecodeError) (s : State) :
    FaultsOnly (faultOf e) s (takeFault e (afterFetch s)) where
  fault := rfl
  jammed := rfl
  pc := rfl
  regs _ := rfl
  mem _ := rfl
  host := rfl
  port := fetchedOnly_afterFetch s

/-- The whole step on a word the decoder rejects: the next state and the report, which carries what the error carries. -/
theorem step_faultsOnly_of_decodeError {s : State} (hr : Running s) {e : DecodeError}
    (he : decodeWord (fetchWord s) = .error e) :
    ∃ t, step s = .next t ∧ FaultsOnly (faultOf e) s t ∧ stepReport s = faultReport e :=
  ⟨_, step_of_decodeError hr he, faultsOnly_takeFault_afterFetch e s, stepReport_of_decodeError hr he⟩

end Sys2Proof.Machine

namespace Sys2Proof.Proofs

open Sys2Proof.Machine Sys2Proof.Safety

/-- Settles O8: the decoder raises the DecodeFault on such a word, and taking it changes the fault status alone. -/
theorem unknownOpcodeTakesTheDecodeFault : Obligations.UnknownOpcodeTakesTheDecodeFault :=
  fun _ hr ho => step_faultsOnly_of_decodeError hr (decodeWord_of_not_mem_shapeOpcodes ho)

/-- Settles O9: the decoder raises the ExecutionFault on such a key, and taking it changes the fault status alone. -/
theorem unmappedKeyTakesTheExecutionFault : Obligations.UnmappedKeyTakesTheExecutionFault :=
  fun _ hr hkey => step_faultsOnly_of_decodeError hr (decodeWord_of_unmappedKey hkey)

/-- Settles O10: a decode error sets the status and keeps the halt flag clear; an instruction keeps the status clear, so its
one possible event is the halt. -/
theorem everyStepEndsWithAtMostOneEvent : Obligations.EveryStepEndsWithAtMostOneEvent := by
  intro s
  obtain ⟨t, hStep⟩ := exists_step s
  refine ⟨t, hStep, fun hr => ?_⟩
  obtain ⟨hn, -⟩ | ⟨-, e, -, rfl⟩ | ⟨-, i, hd, he⟩ := step_cases hStep
  · exact absurd hr hn
  · have hj : (takeFault e (afterFetch s)).jammed = false := hr.1
    cases e with
    | decodeFault => exact .inr (.inr (.inl ⟨hj, rfl⟩))
    | executionFault => exact .inr (.inr (.inr ⟨hj, rfl⟩))
  · have hf : t.fault = .none := (execEffect_fault (execEffect_of_exec hd he)).trans hr.2
    cases hj : t.jammed with
    | false => exact .inl ⟨rfl, hf⟩
    | true => exact .inr (.inl ⟨rfl, hf⟩)

end Sys2Proof.Proofs

/-! SUPPORT. Reset and the host's side (70_reset_and_hazards.md): what the loader makes of storage and leaves unchanged, the
registers after a reset, and the word the step fetches after `withFetchWord`. -/

namespace Sys2Proof.Machine

open Sys2Proof.Safety

/-! ### One byte put into storage -/

theorem ramByte_placeByte_ne {a x : Word} (b : Byte) (s : State) (h : x ≠ a) :
    ramByte (placeByte a b s) x = ramByte s x :=
  Memory.read_write_ne s.mem b (BitVec.toNat_ne_iff_ne.mpr h)

theorem ramByte_placeByte_same (a : Word) (b : Byte) {s : State} (hm : Memory.wf s.mem = true) :
    ramByte (placeByte a b s) a = b :=
  Memory.read_write_same s.mem a.toNat b hm

theorem wf_placeByte (a : Word) (b : Byte) {s : State} (hm : Memory.wf s.mem = true) :
    Memory.wf (placeByte a b s).mem = true :=
  Memory.wf_write s.mem a b hm

/-! ### An image -/

/-- The loader changes storage alone (R234). -/
theorem loadImage_eq_setMem (a : Word) (image : List Byte) (s : State) : ∃ m, loadImage a image s = s.setMem m := by
  induction image generalizing a s with
  | nil => exact ⟨s.mem, rfl⟩
  | cons b rest ih =>
    obtain ⟨m, h⟩ := ih (a + 1#32) (placeByte a b s)
    exact ⟨m, h⟩

@[simp] theorem loadImage_regs (a : Word) (image : List Byte) (s : State) : (loadImage a image s).regs = s.regs := by
  obtain ⟨m, h⟩ := loadImage_eq_setMem a image s; rw [h]; rfl
@[simp] theorem loadImage_pc (a : Word) (image : List Byte) (s : State) : (loadImage a image s).pc = s.pc := by
  obtain ⟨m, h⟩ := loadImage_eq_setMem a image s; rw [h]; rfl
@[simp] theorem loadImage_jammed (a : Word) (image : List Byte) (s : State) : (loadImage a image s).jammed = s.jammed := by
  obtain ⟨m, h⟩ := loadImage_eq_setMem a image s; rw [h]; rfl
@[simp] theorem loadImage_fault (a : Word) (image : List Byte) (s : State) : (loadImage a image s).fault = s.fault := by
  obtain ⟨m, h⟩ := loadImage_eq_setMem a image s; rw [h]; rfl
@[simp] theorem loadImage_oracleRegions (a : Word) (image : List Byte) (s : State) :
    (loadImage a image s).oracleRegions = s.oracleRegions := by
  obtain ⟨m, h⟩ := loadImage_eq_setMem a image s; rw [h]; rfl
@[simp] theorem loadImage_portLog (a : Word) (image : List Byte) (s : State) :
    (loadImage a image s).portLog = s.portLog := by
  obtain ⟨m, h⟩ := loadImage_eq_setMem a image s; rw [h]; rfl

theorem wf_loadImage (a : Word) (image : List Byte) {s : State} (hm : Memory.wf s.mem = true) :
    Memory.wf (loadImage a image s).mem = true := by
  induction image generalizing a s with
  | nil => exact hm
  | cons b rest ih => exact ih (a + 1#32) (wf_placeByte a b hm)

/-- An address at or beyond the image's length, counted from its start modulo 2^32, keeps its byte. -/
theorem ramByte_loadImage_of_length_le {a x : Word} {image : List Byte} (s : State) (h : image.length ≤ (x - a).toNat) :
    ramByte (loadImage a image s) x = ramByte s x := by
  induction image generalizing a s with
  | nil => rfl
  | cons b rest ih =>
    rw [List.length_cons] at h
    have hne : x ≠ a := by
      rintro rfl
      simp at h
    have hrest : rest.length ≤ (x - (a + 1#32)).toNat := by bv_omega
    calc ramByte (loadImage (a + 1#32) rest (placeByte a b s)) x
        = ramByte (placeByte a b s) x := ih _ hrest
      _ = ramByte s x := ramByte_placeByte_ne b s hne

/-- Byte `k` of an image stands at distance `k` from its start: with at most 2^32 bytes no later byte overwrites it. -/
theorem ramByte_loadImage_getElem (a : Word) {image : List Byte} {s : State} (hm : Memory.wf s.mem = true)
    (hlen : image.length ≤ 2 ^ 32) {k : Nat} (hk : k < image.length) :
    ramByte (loadImage a image s) (a + BitVec.ofNat 32 k) = image[k] := by
  induction image generalizing a s k with
  | nil => exact absurd hk (Nat.not_lt_zero k)
  | cons b rest ih =>
    rw [List.length_cons] at hlen
    cases k with
    | zero =>
      have hrest : rest.length ≤ (a - (a + 1#32)).toNat := by bv_omega
      calc ramByte (loadImage (a + 1#32) rest (placeByte a b s)) (a + 0#32)
          = ramByte (loadImage (a + 1#32) rest (placeByte a b s)) a := by rw [BitVec.add_zero]
        _ = ramByte (placeByte a b s) a := ramByte_loadImage_of_length_le _ hrest
        _ = b := ramByte_placeByte_same a b hm
    | succ k =>
      have haddr : a + BitVec.ofNat 32 (k + 1) = a + 1#32 + BitVec.ofNat 32 k := by
        rw [BitVec.add_assoc, ← BitVec.ofNat_add, Nat.add_comm]
      rw [haddr]
      exact ih (a + 1#32) (wf_placeByte a b hm) (by omega) (Nat.lt_of_succ_lt_succ hk)

/-! ### The registers after a reset -/

/-- x1 to x31 hold REG_INIT (R34, R230). -/
theorem readReg_initializeCore (regInit resetAddress : Word) (s : State) {r : RegIdx} (hr : r ≠ 0#5) :
    readReg (initializeCore regInit resetAddress s) r = regInit := by
  have hslot : 0 ≠ r.toNat := fun h => hr (BitVec.eq_of_toNat_eq h.symm)
  simp [readReg, initializeCore, hr, hslot]

/-! ### A word placed at `pc` -/

/-- Laid out as bytes and joined again, a table word is decoded as itself. -/
theorem decodeWord_tableWord_of_decodeTableWord {nbits w : Nat} {i : Instr} (h : decodeTableWord nbits w = some i) :
    decodeWord (tableWord nbits w) = .ok i := by
  unfold decodeTableWord decodeBytes at h
  simp only [joinWord_wordByte] at h
  split at h
  next i' hi => rw [hi, Option.some.inj h]
  next => cases h

/-- No oracle region that `backFetch` keeps covers a byte of the fetch. -/
theorem storage_backFetch (s : State) {k : Nat} (hk : k < 4) : Storage (backFetch s) (s.pc + BitVec.ofNat 32 k) := by
  unfold Storage isOracle backFetch
  rw [List.any_eq_false]
  intro r hr
  simp only [State.setOracleRegions_oracleRegions, List.mem_filter, Bool.not_eq_true', Bool.or_eq_false_iff] at hr
  obtain ⟨-, ⟨⟨h0, h1⟩, h2⟩, h3⟩ := hr
  interval_cases k <;> simp [h0, h1, h2, h3]

section

variable (v : Word) (s : State)

@[simp] theorem placeWord_regs : (placeWord v s).regs = s.regs := loadImage_regs ..
@[simp] theorem placeWord_pc : (placeWord v s).pc = s.pc := loadImage_pc ..
@[simp] theorem placeWord_portLog : (placeWord v s).portLog = s.portLog := loadImage_portLog ..

theorem running_placeWord : Running (placeWord v s) := ⟨loadImage_jammed .., loadImage_fault ..⟩

theorem storage_placeWord {k : Nat} (hk : k < 4) : Storage (placeWord v s) (s.pc + BitVec.ofNat 32 k) := by
  have hregions : (placeWord v s).oracleRegions = (backFetch s).oracleRegions := loadImage_oracleRegions ..
  rw [Storage, isOracle_of_regions_eq hregions]
  exact storage_backFetch s hk

end

theorem ramByte_placeWord (v : Word) {s : State} (hm : Memory.wf s.mem = true) {k : Nat} (hk : k < 4) :
    ramByte (placeWord v s) (s.pc + BitVec.ofNat 32 k) = wordByte v k := by
  have himage := ramByte_loadImage_getElem s.pc (image := [wordByte v 0, wordByte v 1, wordByte v 2, wordByte v 3])
    (s := ((backFetch s).setJammed false).setFault .none) hm (by decide : 4 ≤ 2 ^ 32) hk
  refine Eq.trans himage ?_
  interval_cases k <;> rfl

/-- A word read on storage that holds the four bytes of a word gives that word (R53, R54). -/
theorem memRead4_fst_of_wordBytes {ea v : Word} {s : State} (hs : ∀ k < 4, Storage s (ea + BitVec.ofNat 32 k))
    (hbytes : ∀ k < 4, ramByte s (ea + BitVec.ofNat 32 k) = wordByte v k) : (memRead4 ea s).1 = v := by
  have s0 : Storage s ea := by simpa using hs 0 (by decide)
  have b0 : ramByte s ea = wordByte v 0 := by simpa using hbytes 0 (by decide)
  rw [memRead4_fst_of_storage ea s s0 (hs 1 (by decide)) (hs 2 (by decide)) (hs 3 (by decide)), b0,
    hbytes 1 (by decide), hbytes 2 (by decide), hbytes 3 (by decide)]
  exact joinWord_wordByte v

/-- The next fetch reads the four bytes the loader placed, so the word itself (R101). -/
theorem fetchWord_placeWord (v : Word) {s : State} (hm : Memory.wf s.mem = true) : fetchWord (placeWord v s) = v := by
  rw [fetchWord, fetch, placeWord_pc]
  exact memRead4_fst_of_wordBytes (fun _ => storage_placeWord v s) (fun _ => ramByte_placeWord v hm)

end Sys2Proof.Machine

namespace Sys2Proof.Proofs

open Sys2Proof.Machine Sys2Proof.Safety

/-- A well-formed instruction is what its word decodes to. -/
theorem decodeWord_of_encode_eq {w : Word} {i : Instr} (hwf : i.wf = true) (hw : encode i = w) : decodeWord w = .ok i :=
  hw ▸ decodeInvertsEncode i hwf

/-- Settles O4: by induction on the image, each byte placed is overwritten by no later one; the loader changes storage
alone. -/
theorem loadedImageIsReadBack : Obligations.LoadedImageIsReadBack := by
  intro a image s hm hlen
  exact ⟨fun _ hk => ramByte_loadImage_getElem a hm hlen hk, fun _ hx => ramByte_loadImage_of_length_le s hx,
    loadImage_regs a image s, loadImage_pc a image s, ⟨loadImage_jammed a image s, loadImage_fault a image s⟩,
    loadImage_oracleRegions a image s, loadImage_portLog a image s, wf_loadImage a image hm⟩

/-- Settles O5: the core is running and its next fetch gives the placed word, which decodes to the instruction. -/
theorem placedWordRunsNext : Obligations.PlacedWordRunsNext := by
  intro s nbits w i hm hw
  have hdecoded : decodeWord (fetchWord (placeWord (tableWord nbits w) s)) = .ok i := by
    rw [fetchWord_placeWord _ hm]
    exact decodeWord_tableWord_of_decodeTableWord hw
  exact ⟨step_of_decoded (running_placeWord _ s) hdecoded, placeWord_regs _ s, placeWord_pc _ s, placeWord_portLog _ s,
    fun _ hx => ramByte_loadImage_of_length_le _ hx⟩

/-- Settles O1: `initializeCore` replaces the core's state and no field of the host's. -/
theorem initializeSetsTheCoreAndNothingElse : Obligations.InitializeSetsTheCoreAndNothingElse := by
  intro regInit resetAddress s
  exact ⟨rfl, rfl, rfl, readReg_x0 _, fun _ hr => readReg_initializeCore regInit resetAddress s hr, fun _ => rfl, rfl, rfl⟩

/-- Settles O28: each word is the encoding of its instruction, and the decoder inverts the encoder. -/
theorem writtenOutWordsDecode : Obligations.WrittenOutWordsDecode :=
  ⟨decodeWord_of_encode_eq rfl rfl, decodeWord_of_encode_eq rfl rfl, decodeWord_of_encode_eq rfl rfl,
    decodeWord_of_encode_eq rfl rfl, decodeWord_of_encode_eq rfl rfl, decodeWord_of_encode_eq rfl rfl,
    decodeWord_of_encode_eq rfl rfl, decodeWord_of_encode_eq rfl rfl, decodeWord_of_encode_eq rfl rfl,
    decodeWord_of_encode_eq rfl rfl⟩

end Sys2Proof.Proofs
